-- ==== Sys2Proof/Word.lean ====
section
/-! DEFINITION. The machine's two word types: `u8` and `u16` of spec/00_scope.md R6.
All arithmetic on them is modulo 2^8 and 2^16. -/

namespace Sys2Proof

/-- `u8`: the width of the data bus and of A, X, Y, SP and P (R5, R6). -/
abbrev Byte := BitVec 8

/-- `u16`: a CPU address, and the width of PC (R5, R6). -/
abbrev Word := BitVec 16

end Sys2Proof
end

