-- ==== Sys2Proof/Machine/Flags.lean ====
section
/-! DEFINITION. The status register P (spec/10_state.md R23, R24): its flags by name, and every flag computation the
instruction rules give. Bit 7 down to bit 0: N, V, -, B, D, I, Z, C. -/

namespace Sys2Proof.Machine

/-- Bit `i` of `p` set to `b`. -/
def setBit (i : Nat) (b : Bool) (p : Byte) : Byte :=
  if b then p ||| (1#8 <<< i) else p &&& ~~~(1#8 <<< i)

/-- `P.N`. -/
def flagN (p : Byte) : Bool := p.getLsbD 7

/-- `P.V`. -/
def flagV (p : Byte) : Bool := p.getLsbD 6

/-- `P.D`. -/
def flagD (p : Byte) : Bool := p.getLsbD 3

/-- `P.I`. -/
def flagI (p : Byte) : Bool := p.getLsbD 2

/-- `P.Z`. -/
def flagZ (p : Byte) : Bool := p.getLsbD 1

/-- `P.C`. -/
def flagC (p : Byte) : Bool := p.getLsbD 0

/-- `P.N <- b`. -/
def setN (b : Bool) (p : Byte) : Byte := setBit 7 b p

/-- `P.V <- b`. -/
def setV (b : Bool) (p : Byte) : Byte := setBit 6 b p

/-- `P.D <- b`. -/
def setD (b : Bool) (p : Byte) : Byte := setBit 3 b p

/-- `P.I <- b`. -/
def setI (b : Bool) (p : Byte) : Byte := setBit 2 b p

/-- `P.Z <- b`. -/
def setZ (b : Bool) (p : Byte) : Byte := setBit 1 b p

/-- `P.C <- b`. -/
def setC (b : Bool) (p : Byte) : Byte := setBit 0 b p

/-- `SetZN(v)` (R24): Z is set iff the result byte is zero, N mirrors its bit 7. -/
def setZN (v p : Byte) : Byte := setN (v.getLsbD 7) (setZ (v == 0) p)

/-- The byte pushed for P by a pusher whose B value is `b` (R23): bit 5 always 1, bit 4 is `b`. -/
def pushedStatus (b : Bool) (p : Byte) : Byte := p ||| 0x20 ||| (if b then 0x10 else 0x00)

/-- What PLP and RTI store of a pulled byte (spec/42_transfer_stack.md R159): bit 4 discarded, bit 5 forced to 1. -/
def pulledStatus (v : Byte) : Byte := (v &&& 0xCF) ||| 0x20

/-! ## Arithmetic (spec/44_arithmetic.md R182) -/

/-- The 9-bit sum `t` of AddCore. -/
def addSum (a m : Byte) (c : Bool) : BitVec 9 :=
  a.setWidth 9 + m.setWidth 9 + (BitVec.ofBool c).setWidth 9

/-- `r = t[7:0]`. -/
def addResult (a m : Byte) (c : Bool) : Byte := (addSum a m c).setWidth 8

/-- `t[8]`, the carry out. -/
def addCarry (a m : Byte) (c : Bool) : Bool := (addSum a m c).getLsbD 8

/-- The overflow formula `(~(A ^ m) & (A ^ r) & $80) != 0`. -/
def addOverflow (a m : Byte) (c : Bool) : Bool :=
  (~~~(a ^^^ m) &&& (a ^^^ addResult a m c) &&& 0x80) != 0

/-- P after AddCore: C, V, then Z and N of the result. -/
def addFlags (a m p : Byte) : Byte :=
  setZN (addResult a m (flagC p)) (setV (addOverflow a m (flagC p)) (setC (addCarry a m (flagC p)) p))

/-! ## Compares, BIT -/

/-- P after a compare of a register `r` with `m` (spec/46_compare_incdec.md R200). -/
def compareFlags (r m p : Byte) : Byte :=
  setN ((r - m).getLsbD 7) (setZ (r == m) (setC (decide (m ≤ r)) p))

/-- P after BIT (spec/43_logical.md R173): N and V from the operand, Z from `A & M`. -/
def bitFlags (a m p : Byte) : Byte :=
  setZ ((a &&& m) == 0) (setV (m.getLsbD 6) (setN (m.getLsbD 7) p))

/-! ## Shifts and rotates (spec/45_shifts.md): the result and P, from the operand `v` and the old P -/

/-- P after a shift: the bit shifted out in C, then Z and N of the result. -/
def shiftFlags (out : Bool) (r p : Byte) : Byte := setZN r (setC out p)

/-- ASL (R190). -/
def aslOp (v p : Byte) : Byte × Byte := (v <<< 1, shiftFlags (v.getLsbD 7) (v <<< 1) p)

/-- LSR (R191). -/
def lsrOp (v p : Byte) : Byte × Byte := (v >>> 1, shiftFlags (v.getLsbD 0) (v >>> 1) p)

/-- The result of ROL (R192): the old carry enters at bit 0. -/
def rolResult (v p : Byte) : Byte := (v <<< 1) ||| (BitVec.ofBool (flagC p)).setWidth 8

/-- ROL (R192). -/
def rolOp (v p : Byte) : Byte × Byte := (rolResult v p, shiftFlags (v.getLsbD 7) (rolResult v p) p)

/-- The result of ROR (R193): the old carry enters at bit 7. -/
def rorResult (v p : Byte) : Byte := (v >>> 1) ||| ((BitVec.ofBool (flagC p)).setWidth 8 <<< 7)

/-- ROR (R193). -/
def rorOp (v p : Byte) : Byte × Byte := (rorResult v p, shiftFlags (v.getLsbD 0) (rorResult v p) p)

/-- INC (spec/46_compare_incdec.md R203): the result and P. -/
def incOp (v p : Byte) : Byte × Byte := (v + 1, setZN (v + 1) p)

/-- DEC (R204). -/
def decOp (v p : Byte) : Byte × Byte := (v - 1, setZN (v - 1) p)

end Sys2Proof.Machine
end

