-- ==== Sys2Proof/Config.lean ====
section
/-! DEFINITION. What is fixed for one machine: the parameters of spec/00_scope.md R5, the cartridge
configuration of spec/10_state.md R31, and the free values the spec leaves to the environment. -/

namespace Sys2Proof

/-- The mirroring mode the cartridge reports to the PPU (spec/10_state.md R33): the first three can
come from an image, the last two only from an MMC1 commit. -/
inductive Mirroring where
  | horizontal
  | vertical
  | fourScreen
  | oneScreenLow
  | oneScreenHigh
  deriving DecidableEq, Repr

/-- Cartridge configuration, constant after load (spec/10_state.md R31). The mapper number is the
constructor of `Machine.Board`, so that a board's registers stand beside it. -/
structure CartConfig where
  prgBanks16k   : Nat
  chrBanks8k    : Nat
  hasPrgRam     : Bool
  mirroringInit : Mirroring
  deriving DecidableEq, Repr

namespace Config

/-- `OPEN_BUS_VALUE`, the byte a read of an address no target answers returns
(spec/20_memory.md R64; the policy D1 picks; log entry 5). -/
def openBusValue : Byte := 0x00

/-- `MMC1_POWERON`: the control register at power-on (spec/10_state.md R44). The other MMC1
registers are 0. -/
def mmc1PowerOnControl : BitVec 5 := 0x0C

/-- FREE VALUE (log entry 4): the byte the n-th port read returns where the environment's script
`Env.portAnswers` is used up (spec/00_scope.md R9 (c)). It has no body: nothing can be proved of it. -/
opaque freePortByte : Nat → Byte

/-- The configuration of the cartridge in `State.reset` (DESIGN CHOICE, log entry 1): the smallest
image spec/20_memory.md R71 accepts, one PRG bank, CHR-RAM, no PRG-RAM, horizontal mirroring. -/
def blankCartridge : CartConfig :=
  { prgBanks16k := 1, chrBanks8k := 0, hasPrgRam := false, mirroringInit := .horizontal }

end Config

end Sys2Proof
end

