-- ==== Sys2Proof/Syntax.lean ====
section
/-! DEFINITION. The instructions: one constructor per row of spec/opcode_table.json (151 rows, spec/30_encoding.md
R105), the 56 mnemonics and the 13 addressing modes. A constructor is its mnemonic and, where the mnemonic has
several modes, the mode's abbreviation of R105. Its argument is the operand R103 assembles: `v` an immediate byte,
`z` a zero-page address, `d` a signed displacement, `a` a 16-bit address. -/

namespace Sys2Proof

/-- The thirteen addressing modes (spec/40_addressing_modes.md R121 to R132). -/
inductive Mode where
  | implied
  | accumulator
  | immediate
  | zeroPage
  | zeroPageX
  | zeroPageY
  | relative
  | absolute
  | absoluteX
  | absoluteY
  | indirect
  | indirectX
  | indirectY
  deriving DecidableEq, Repr

/-- The 56 mnemonics of spec/30_encoding.md R105. -/
inductive Mnemonic where
  | lda | ldx | ldy | sta | stx | sty | tax | txa | tay | tya | tsx | txs | pha | pla
  | php | plp | and | ora | eor | bit | adc | sbc | asl | lsr | rol | ror | cmp | cpx
  | cpy | inc | dec | inx | iny | dex | dey | bpl | bmi | bvc | bvs | bcc | bcs | bne
  | beq | jmp | jsr | rts | brk | rti | clc | sec | cli | sei | clv | cld | sed | nop
  deriving DecidableEq, Repr

/-- The instructions, one constructor per opcode. -/
inductive Instr where
  -- LDA, load accumulator (R140)
  | ldaImm (v : Byte) | ldaZp (z : Byte) | ldaZpx (z : Byte) | ldaAbs (a : Word)
  | ldaAbx (a : Word) | ldaAby (a : Word) | ldaIzx (z : Byte) | ldaIzy (z : Byte)
  -- LDX, load X (R141)
  | ldxImm (v : Byte) | ldxZp (z : Byte) | ldxZpy (z : Byte) | ldxAbs (a : Word)
  | ldxAby (a : Word)
  -- LDY, load Y (R142)
  | ldyImm (v : Byte) | ldyZp (z : Byte) | ldyZpx (z : Byte) | ldyAbs (a : Word)
  | ldyAbx (a : Word)
  -- STA, store accumulator (R143)
  | staZp (z : Byte) | staZpx (z : Byte) | staAbs (a : Word) | staAbx (a : Word)
  | staAby (a : Word) | staIzx (z : Byte) | staIzy (z : Byte)
  -- STX, store X (R144)
  | stxZp (z : Byte) | stxZpy (z : Byte) | stxAbs (a : Word)
  -- STY, store Y (R145)
  | styZp (z : Byte) | styZpx (z : Byte) | styAbs (a : Word)
  -- TAX, transfer A to X (R150)
  | tax
  -- TXA, transfer X to A (R151)
  | txa
  -- TAY, transfer A to Y (R152)
  | tay
  -- TYA, transfer Y to A (R153)
  | tya
  -- TSX, transfer SP to X (R154)
  | tsx
  -- TXS, transfer X to SP (R155)
  | txs
  -- PHA, push A (R156)
  | pha
  -- PLA, pull A (R157)
  | pla
  -- PHP, push status (R158)
  | php
  -- PLP, pull status (R159)
  | plp
  -- AND, bitwise and (R170)
  | andImm (v : Byte) | andZp (z : Byte) | andZpx (z : Byte) | andAbs (a : Word)
  | andAbx (a : Word) | andAby (a : Word) | andIzx (z : Byte) | andIzy (z : Byte)
  -- ORA, bitwise or (R171)
  | oraImm (v : Byte) | oraZp (z : Byte) | oraZpx (z : Byte) | oraAbs (a : Word)
  | oraAbx (a : Word) | oraAby (a : Word) | oraIzx (z : Byte) | oraIzy (z : Byte)
  -- EOR, bitwise exclusive or (R172)
  | eorImm (v : Byte) | eorZp (z : Byte) | eorZpx (z : Byte) | eorAbs (a : Word)
  | eorAbx (a : Word) | eorAby (a : Word) | eorIzx (z : Byte) | eorIzy (z : Byte)
  -- BIT, bit test (R173)
  | bitZp (z : Byte) | bitAbs (a : Word)
  -- ADC, add with carry (R180)
  | adcImm (v : Byte) | adcZp (z : Byte) | adcZpx (z : Byte) | adcAbs (a : Word)
  | adcAbx (a : Word) | adcAby (a : Word) | adcIzx (z : Byte) | adcIzy (z : Byte)
  -- SBC, subtract with carry (R181)
  | sbcImm (v : Byte) | sbcZp (z : Byte) | sbcZpx (z : Byte) | sbcAbs (a : Word)
  | sbcAbx (a : Word) | sbcAby (a : Word) | sbcIzx (z : Byte) | sbcIzy (z : Byte)
  -- ASL, arithmetic shift left (R190)
  | aslAcc | aslZp (z : Byte) | aslZpx (z : Byte) | aslAbs (a : Word) | aslAbx (a : Word)
  -- LSR, logical shift right (R191)
  | lsrAcc | lsrZp (z : Byte) | lsrZpx (z : Byte) | lsrAbs (a : Word) | lsrAbx (a : Word)
  -- ROL, rotate left through carry (R192)
  | rolAcc | rolZp (z : Byte) | rolZpx (z : Byte) | rolAbs (a : Word) | rolAbx (a : Word)
  -- ROR, rotate right through carry (R193)
  | rorAcc | rorZp (z : Byte) | rorZpx (z : Byte) | rorAbs (a : Word) | rorAbx (a : Word)
  -- CMP, compare accumulator (R200)
  | cmpImm (v : Byte) | cmpZp (z : Byte) | cmpZpx (z : Byte) | cmpAbs (a : Word)
  | cmpAbx (a : Word) | cmpAby (a : Word) | cmpIzx (z : Byte) | cmpIzy (z : Byte)
  -- CPX, compare X (R201)
  | cpxImm (v : Byte) | cpxZp (z : Byte) | cpxAbs (a : Word)
  -- CPY, compare Y (R202)
  | cpyImm (v : Byte) | cpyZp (z : Byte) | cpyAbs (a : Word)
  -- INC, increment memory (R203)
  | incZp (z : Byte) | incZpx (z : Byte) | incAbs (a : Word) | incAbx (a : Word)
  -- DEC, decrement memory (R204)
  | decZp (z : Byte) | decZpx (z : Byte) | decAbs (a : Word) | decAbx (a : Word)
  -- INX, increment X (R205)
  | inx
  -- INY, increment Y (R206)
  | iny
  -- DEX, decrement X (R207)
  | dex
  -- DEY, decrement Y (R208)
  | dey
  -- BPL, branch if plus (R211)
  | bpl (d : Byte)
  -- BMI, branch if minus (R212)
  | bmi (d : Byte)
  -- BVC, branch if overflow clear (R213)
  | bvc (d : Byte)
  -- BVS, branch if overflow set (R214)
  | bvs (d : Byte)
  -- BCC, branch if carry clear (R215)
  | bcc (d : Byte)
  -- BCS, branch if carry set (R216)
  | bcs (d : Byte)
  -- BNE, branch if not equal (R217)
  | bne (d : Byte)
  -- BEQ, branch if equal (R218)
  | beq (d : Byte)
  -- JMP, jump (R219 to R220)
  | jmpAbs (a : Word) | jmpInd (a : Word)
  -- JSR, jump to subroutine (R221)
  | jsr (a : Word)
  -- RTS, return from subroutine (R222)
  | rts
  -- BRK, software interrupt (R230)
  | brk
  -- RTI, return from interrupt (R231)
  | rti
  -- CLC, clear carry (R232)
  | clc
  -- SEC, set carry (R233)
  | sec
  -- CLI, clear interrupt disable (R234)
  | cli
  -- SEI, set interrupt disable (R235)
  | sei
  -- CLV, clear overflow (R236)
  | clv
  -- CLD, clear decimal (R237)
  | cld
  -- SED, set decimal (R238)
  | sed
  -- NOP, no operation (R239)
  | nop
  deriving DecidableEq, Repr

end Sys2Proof
end

