-- ==== Sys2Proof/WellFormed.lean ====
section
/-! DEFINITION. What makes an instruction and a cartridge configuration legal. -/

namespace Sys2Proof

/-- Every instruction is well formed: an operand is a byte or a word, and every value of an operand byte is legal in
every mode (spec/30_encoding.md R107). There is no ill-formed instruction to refuse. -/
def Instr.wellFormed (_ : Instr) : Bool := true

/-- The mirroring modes an image can name (spec/20_memory.md R70): the one-screen modes come from MMC1 alone. -/
def Mirroring.fromImage : Mirroring → Bool
  | .horizontal | .vertical | .fourScreen => true
  | .oneScreenLow | .oneScreenHigh => false

/-- The ranges spec/10_state.md R31 gives the configuration of a loaded cartridge: 1 to 255 PRG banks (0 is refused,
spec/20_memory.md R71), 0 to 255 CHR banks, an initial mirroring an image can name. -/
def CartConfig.wellFormed (c : CartConfig) : Bool :=
  1 ≤ c.prgBanks16k && c.prgBanks16k ≤ 255 && c.chrBanks8k ≤ 255 && c.mirroringInit.fromImage

end Sys2Proof
end

