-- ==== Sys2Proof/Decode.lean ====
section
/-! DEFINITION. Decoding and encoding (spec/30_encoding.md R100 to R107): the byte-order helpers, the decode table as
R105 prints it, the decoder, the rows of spec/opcode_table.json, and the encoder written from those rows. -/

namespace Sys2Proof

/-! ## Byte order and lengths -/

/-- `(h:l)` of spec/00_scope.md R6: the 16-bit value `h*256 + l`. -/
def wordOf (h l : Byte) : Word := h ++ l

/-- `w[15:8]`, also `page(w)` (R6). -/
def hiByte (w : Word) : Byte := w.extractLsb' 8 8

/-- `w[7:0]` (R6). -/
def loByte (w : Word) : Byte := w.setWidth 8

/-- `zext_16(b)` (R6). -/
def zext16 (b : Byte) : Word := b.setWidth 16

/-- `sext_16(b)` (R6): `b` read as a two's-complement number. -/
def sext16 (b : Byte) : Word := b.signExtend 16

/-- The length in bytes of an instruction in each mode: formats F1, F2, F3 of R100. -/
def Mode.length : Mode → Nat
  | .implied | .accumulator => 1
  | .immediate | .zeroPage | .zeroPageX | .zeroPageY | .relative | .indirectX | .indirectY => 2
  | .absolute | .absoluteX | .absoluteY | .indirect => 3

/-- The three-letter opcode name (R108), as spec/opcode_table.json spells it. -/
def Mnemonic.name : Mnemonic → List Char
  | .lda => ['L', 'D', 'A']
  | .ldx => ['L', 'D', 'X']
  | .ldy => ['L', 'D', 'Y']
  | .sta => ['S', 'T', 'A']
  | .stx => ['S', 'T', 'X']
  | .sty => ['S', 'T', 'Y']
  | .tax => ['T', 'A', 'X']
  | .txa => ['T', 'X', 'A']
  | .tay => ['T', 'A', 'Y']
  | .tya => ['T', 'Y', 'A']
  | .tsx => ['T', 'S', 'X']
  | .txs => ['T', 'X', 'S']
  | .pha => ['P', 'H', 'A']
  | .pla => ['P', 'L', 'A']
  | .php => ['P', 'H', 'P']
  | .plp => ['P', 'L', 'P']
  | .and => ['A', 'N', 'D']
  | .ora => ['O', 'R', 'A']
  | .eor => ['E', 'O', 'R']
  | .bit => ['B', 'I', 'T']
  | .adc => ['A', 'D', 'C']
  | .sbc => ['S', 'B', 'C']
  | .asl => ['A', 'S', 'L']
  | .lsr => ['L', 'S', 'R']
  | .rol => ['R', 'O', 'L']
  | .ror => ['R', 'O', 'R']
  | .cmp => ['C', 'M', 'P']
  | .cpx => ['C', 'P', 'X']
  | .cpy => ['C', 'P', 'Y']
  | .inc => ['I', 'N', 'C']
  | .dec => ['D', 'E', 'C']
  | .inx => ['I', 'N', 'X']
  | .iny => ['I', 'N', 'Y']
  | .dex => ['D', 'E', 'X']
  | .dey => ['D', 'E', 'Y']
  | .bpl => ['B', 'P', 'L']
  | .bmi => ['B', 'M', 'I']
  | .bvc => ['B', 'V', 'C']
  | .bvs => ['B', 'V', 'S']
  | .bcc => ['B', 'C', 'C']
  | .bcs => ['B', 'C', 'S']
  | .bne => ['B', 'N', 'E']
  | .beq => ['B', 'E', 'Q']
  | .jmp => ['J', 'M', 'P']
  | .jsr => ['J', 'S', 'R']
  | .rts => ['R', 'T', 'S']
  | .brk => ['B', 'R', 'K']
  | .rti => ['R', 'T', 'I']
  | .clc => ['C', 'L', 'C']
  | .sec => ['S', 'E', 'C']
  | .cli => ['C', 'L', 'I']
  | .sei => ['S', 'E', 'I']
  | .clv => ['C', 'L', 'V']
  | .cld => ['C', 'L', 'D']
  | .sed => ['S', 'E', 'D']
  | .nop => ['N', 'O', 'P']

/-! ## Decoding -/

/-- What an opcode byte selects (R101, R103): an instruction with no operand byte, with one, or with two that make a
word, low byte first. -/
inductive Format where
  | one   (i : Instr)
  | two   (mk : Byte → Instr)
  | three (mk : Word → Instr)

/-! The sixteen rows of the table of R105, by the opcode's low nibble. -/

/-- Row 0x of R105. -/
def formatRow0 : Nat → Option Format
  | 0x0 => some (.one .brk)
  | 0x1 => some (.two .oraIzx)
  | 0x5 => some (.two .oraZp)
  | 0x6 => some (.two .aslZp)
  | 0x8 => some (.one .php)
  | 0x9 => some (.two .oraImm)
  | 0xA => some (.one .aslAcc)
  | 0xD => some (.three .oraAbs)
  | 0xE => some (.three .aslAbs)
  | _ => none

/-- Row 1x of R105. -/
def formatRow1 : Nat → Option Format
  | 0x0 => some (.two .bpl)
  | 0x1 => some (.two .oraIzy)
  | 0x5 => some (.two .oraZpx)
  | 0x6 => some (.two .aslZpx)
  | 0x8 => some (.one .clc)
  | 0x9 => some (.three .oraAby)
  | 0xD => some (.three .oraAbx)
  | 0xE => some (.three .aslAbx)
  | _ => none

/-- Row 2x of R105. -/
def formatRow2 : Nat → Option Format
  | 0x0 => some (.three .jsr)
  | 0x1 => some (.two .andIzx)
  | 0x4 => some (.two .bitZp)
  | 0x5 => some (.two .andZp)
  | 0x6 => some (.two .rolZp)
  | 0x8 => some (.one .plp)
  | 0x9 => some (.two .andImm)
  | 0xA => some (.one .rolAcc)
  | 0xC => some (.three .bitAbs)
  | 0xD => some (.three .andAbs)
  | 0xE => some (.three .rolAbs)
  | _ => none

/-- Row 3x of R105. -/
def formatRow3 : Nat → Option Format
  | 0x0 => some (.two .bmi)
  | 0x1 => some (.two .andIzy)
  | 0x5 => some (.two .andZpx)
  | 0x6 => some (.two .rolZpx)
  | 0x8 => some (.one .sec)
  | 0x9 => some (.three .andAby)
  | 0xD => some (.three .andAbx)
  | 0xE => some (.three .rolAbx)
  | _ => none

/-- Row 4x of R105. -/
def formatRow4 : Nat → Option Format
  | 0x0 => some (.one .rti)
  | 0x1 => some (.two .eorIzx)
  | 0x5 => some (.two .eorZp)
  | 0x6 => some (.two .lsrZp)
  | 0x8 => some (.one .pha)
  | 0x9 => some (.two .eorImm)
  | 0xA => some (.one .lsrAcc)
  | 0xC => some (.three .jmpAbs)
  | 0xD => some (.three .eorAbs)
  | 0xE => some (.three .lsrAbs)
  | _ => none

/-- Row 5x of R105. -/
def formatRow5 : Nat → Option Format
  | 0x0 => some (.two .bvc)
  | 0x1 => some (.two .eorIzy)
  | 0x5 => some (.two .eorZpx)
  | 0x6 => some (.two .lsrZpx)
  | 0x8 => some (.one .cli)
  | 0x9 => some (.three .eorAby)
  | 0xD => some (.three .eorAbx)
  | 0xE => some (.three .lsrAbx)
  | _ => none

/-- Row 6x of R105. -/
def formatRow6 : Nat → Option Format
  | 0x0 => some (.one .rts)
  | 0x1 => some (.two .adcIzx)
  | 0x5 => some (.two .adcZp)
  | 0x6 => some (.two .rorZp)
  | 0x8 => some (.one .pla)
  | 0x9 => some (.two .adcImm)
  | 0xA => some (.one .rorAcc)
  | 0xC => some (.three .jmpInd)
  | 0xD => some (.three .adcAbs)
  | 0xE => some (.three .rorAbs)
  | _ => none

/-- Row 7x of R105. -/
def formatRow7 : Nat → Option Format
  | 0x0 => some (.two .bvs)
  | 0x1 => some (.two .adcIzy)
  | 0x5 => some (.two .adcZpx)
  | 0x6 => some (.two .rorZpx)
  | 0x8 => some (.one .sei)
  | 0x9 => some (.three .adcAby)
  | 0xD => some (.three .adcAbx)
  | 0xE => some (.three .rorAbx)
  | _ => none

/-- Row 8x of R105. -/
def formatRow8 : Nat → Option Format
  | 0x1 => some (.two .staIzx)
  | 0x4 => some (.two .styZp)
  | 0x5 => some (.two .staZp)
  | 0x6 => some (.two .stxZp)
  | 0x8 => some (.one .dey)
  | 0xA => some (.one .txa)
  | 0xC => some (.three .styAbs)
  | 0xD => some (.three .staAbs)
  | 0xE => some (.three .stxAbs)
  | _ => none

/-- Row 9x of R105. -/
def formatRow9 : Nat → Option Format
  | 0x0 => some (.two .bcc)
  | 0x1 => some (.two .staIzy)
  | 0x4 => some (.two .styZpx)
  | 0x5 => some (.two .staZpx)
  | 0x6 => some (.two .stxZpy)
  | 0x8 => some (.one .tya)
  | 0x9 => some (.three .staAby)
  | 0xA => some (.one .txs)
  | 0xD => some (.three .staAbx)
  | _ => none

/-- Row Ax of R105. -/
def formatRowA : Nat → Option Format
  | 0x0 => some (.two .ldyImm)
  | 0x1 => some (.two .ldaIzx)
  | 0x2 => some (.two .ldxImm)
  | 0x4 => some (.two .ldyZp)
  | 0x5 => some (.two .ldaZp)
  | 0x6 => some (.two .ldxZp)
  | 0x8 => some (.one .tay)
  | 0x9 => some (.two .ldaImm)
  | 0xA => some (.one .tax)
  | 0xC => some (.three .ldyAbs)
  | 0xD => some (.three .ldaAbs)
  | 0xE => some (.three .ldxAbs)
  | _ => none

/-- Row Bx of R105. -/
def formatRowB : Nat → Option Format
  | 0x0 => some (.two .bcs)
  | 0x1 => some (.two .ldaIzy)
  | 0x4 => some (.two .ldyZpx)
  | 0x5 => some (.two .ldaZpx)
  | 0x6 => some (.two .ldxZpy)
  | 0x8 => some (.one .clv)
  | 0x9 => some (.three .ldaAby)
  | 0xA => some (.one .tsx)
  | 0xC => some (.three .ldyAbx)
  | 0xD => some (.three .ldaAbx)
  | 0xE => some (.three .ldxAby)
  | _ => none

/-- Row Cx of R105. -/
def formatRowC : Nat → Option Format
  | 0x0 => some (.two .cpyImm)
  | 0x1 => some (.two .cmpIzx)
  | 0x4 => some (.two .cpyZp)
  | 0x5 => some (.two .cmpZp)
  | 0x6 => some (.two .decZp)
  | 0x8 => some (.one .iny)
  | 0x9 => some (.two .cmpImm)
  | 0xA => some (.one .dex)
  | 0xC => some (.three .cpyAbs)
  | 0xD => some (.three .cmpAbs)
  | 0xE => some (.three .decAbs)
  | _ => none

/-- Row Dx of R105. -/
def formatRowD : Nat → Option Format
  | 0x0 => some (.two .bne)
  | 0x1 => some (.two .cmpIzy)
  | 0x5 => some (.two .cmpZpx)
  | 0x6 => some (.two .decZpx)
  | 0x8 => some (.one .cld)
  | 0x9 => some (.three .cmpAby)
  | 0xD => some (.three .cmpAbx)
  | 0xE => some (.three .decAbx)
  | _ => none

/-- Row Ex of R105. -/
def formatRowE : Nat → Option Format
  | 0x0 => some (.two .cpxImm)
  | 0x1 => some (.two .sbcIzx)
  | 0x4 => some (.two .cpxZp)
  | 0x5 => some (.two .sbcZp)
  | 0x6 => some (.two .incZp)
  | 0x8 => some (.one .inx)
  | 0x9 => some (.two .sbcImm)
  | 0xA => some (.one .nop)
  | 0xC => some (.three .cpxAbs)
  | 0xD => some (.three .sbcAbs)
  | 0xE => some (.three .incAbs)
  | _ => none

/-- Row Fx of R105. -/
def formatRowF : Nat → Option Format
  | 0x0 => some (.two .beq)
  | 0x1 => some (.two .sbcIzy)
  | 0x5 => some (.two .sbcZpx)
  | 0x6 => some (.two .incZpx)
  | 0x8 => some (.one .sed)
  | 0x9 => some (.three .sbcAby)
  | 0xD => some (.three .sbcAbx)
  | 0xE => some (.three .incAbx)
  | _ => none

/-- The rows of R105, by the opcode's high nibble. -/
def formatAt : Nat → Nat → Option Format
  | 0x0 => formatRow0
  | 0x1 => formatRow1
  | 0x2 => formatRow2
  | 0x3 => formatRow3
  | 0x4 => formatRow4
  | 0x5 => formatRow5
  | 0x6 => formatRow6
  | 0x7 => formatRow7
  | 0x8 => formatRow8
  | 0x9 => formatRow9
  | 0xA => formatRowA
  | 0xB => formatRowB
  | 0xC => formatRowC
  | 0xD => formatRowD
  | 0xE => formatRowE
  | _ => formatRowF

/-- The 256-entry decode table (R105): `none` for the 105 undocumented bytes (R106). -/
def formatOf (op : Byte) : Option Format := formatAt (op.toNat / 16) (op.toNat % 16)

/-- Why a list of bytes is not an instruction. -/
inductive DecodeError where
  /-- The opcode byte is not one of the 151 documented ones (R106). -/
  | undocumented (op : Byte)
  /-- The list ends before the instruction does (R101). -/
  | truncated
  deriving DecidableEq, Repr

/-- The decoder: the instruction at the head of a list of bytes and the bytes after it (R100, R101, R103). -/
def decode : List Byte → Except DecodeError (Instr × List Byte)
  | [] => .error .truncated
  | op :: rest =>
    match formatOf op, rest with
    | none, _ => .error (.undocumented op)
    | some (.one i), rest => .ok (i, rest)
    | some (.two mk), b :: rest => .ok (mk b, rest)
    | some (.three mk), l :: h :: rest => .ok (mk (wordOf h l), rest)
    | some (.two _), [] => .error .truncated
    | some (.three _), [] => .error .truncated
    | some (.three _), [_] => .error .truncated

/-! ## The rows of spec/opcode_table.json -/

/-- One row: the opcode byte (`match`) and the tuple of R105 `mnemonic`, `mode`, `cycles`, `page_penalty`,
`write_only`. -/
structure OpcodeRow where
  opcode      : Byte
  mnemonic    : Mnemonic
  mode        : Mode
  cycles      : Nat
  pagePenalty : Bool
  writeOnly   : Bool
  deriving DecidableEq, Repr

/-- The row of each instruction. -/
def Instr.row : Instr → OpcodeRow
  | .ldaImm _ => ⟨0xA9, .lda, .immediate, 2, false, false⟩
  | .ldaZp _ => ⟨0xA5, .lda, .zeroPage, 3, false, false⟩
  | .ldaZpx _ => ⟨0xB5, .lda, .zeroPageX, 4, false, false⟩
  | .ldaAbs _ => ⟨0xAD, .lda, .absolute, 4, false, false⟩
  | .ldaAbx _ => ⟨0xBD, .lda, .absoluteX, 4, true, false⟩
  | .ldaAby _ => ⟨0xB9, .lda, .absoluteY, 4, true, false⟩
  | .ldaIzx _ => ⟨0xA1, .lda, .indirectX, 6, false, false⟩
  | .ldaIzy _ => ⟨0xB1, .lda, .indirectY, 5, true, false⟩
  | .ldxImm _ => ⟨0xA2, .ldx, .immediate, 2, false, false⟩
  | .ldxZp _ => ⟨0xA6, .ldx, .zeroPage, 3, false, false⟩
  | .ldxZpy _ => ⟨0xB6, .ldx, .zeroPageY, 4, false, false⟩
  | .ldxAbs _ => ⟨0xAE, .ldx, .absolute, 4, false, false⟩
  | .ldxAby _ => ⟨0xBE, .ldx, .absoluteY, 4, true, false⟩
  | .ldyImm _ => ⟨0xA0, .ldy, .immediate, 2, false, false⟩
  | .ldyZp _ => ⟨0xA4, .ldy, .zeroPage, 3, false, false⟩
  | .ldyZpx _ => ⟨0xB4, .ldy, .zeroPageX, 4, false, false⟩
  | .ldyAbs _ => ⟨0xAC, .ldy, .absolute, 4, false, false⟩
  | .ldyAbx _ => ⟨0xBC, .ldy, .absoluteX, 4, true, false⟩
  | .staZp _ => ⟨0x85, .sta, .zeroPage, 3, false, true⟩
  | .staZpx _ => ⟨0x95, .sta, .zeroPageX, 4, false, true⟩
  | .staAbs _ => ⟨0x8D, .sta, .absolute, 4, false, true⟩
  | .staAbx _ => ⟨0x9D, .sta, .absoluteX, 5, false, true⟩
  | .staAby _ => ⟨0x99, .sta, .absoluteY, 5, false, true⟩
  | .staIzx _ => ⟨0x81, .sta, .indirectX, 6, false, true⟩
  | .staIzy _ => ⟨0x91, .sta, .indirectY, 6, false, true⟩
  | .stxZp _ => ⟨0x86, .stx, .zeroPage, 3, false, true⟩
  | .stxZpy _ => ⟨0x96, .stx, .zeroPageY, 4, false, true⟩
  | .stxAbs _ => ⟨0x8E, .stx, .absolute, 4, false, true⟩
  | .styZp _ => ⟨0x84, .sty, .zeroPage, 3, false, true⟩
  | .styZpx _ => ⟨0x94, .sty, .zeroPageX, 4, false, true⟩
  | .styAbs _ => ⟨0x8C, .sty, .absolute, 4, false, true⟩
  | .tax => ⟨0xAA, .tax, .implied, 2, false, false⟩
  | .txa => ⟨0x8A, .txa, .implied, 2, false, false⟩
  | .tay => ⟨0xA8, .tay, .implied, 2, false, false⟩
  | .tya => ⟨0x98, .tya, .implied, 2, false, false⟩
  | .tsx => ⟨0xBA, .tsx, .implied, 2, false, false⟩
  | .txs => ⟨0x9A, .txs, .implied, 2, false, false⟩
  | .pha => ⟨0x48, .pha, .implied, 3, false, false⟩
  | .pla => ⟨0x68, .pla, .implied, 4, false, false⟩
  | .php => ⟨0x08, .php, .implied, 3, false, false⟩
  | .plp => ⟨0x28, .plp, .implied, 4, false, false⟩
  | .andImm _ => ⟨0x29, .and, .immediate, 2, false, false⟩
  | .andZp _ => ⟨0x25, .and, .zeroPage, 3, false, false⟩
  | .andZpx _ => ⟨0x35, .and, .zeroPageX, 4, false, false⟩
  | .andAbs _ => ⟨0x2D, .and, .absolute, 4, false, false⟩
  | .andAbx _ => ⟨0x3D, .and, .absoluteX, 4, true, false⟩
  | .andAby _ => ⟨0x39, .and, .absoluteY, 4, true, false⟩
  | .andIzx _ => ⟨0x21, .and, .indirectX, 6, false, false⟩
  | .andIzy _ => ⟨0x31, .and, .indirectY, 5, true, false⟩
  | .oraImm _ => ⟨0x09, .ora, .immediate, 2, false, false⟩
  | .oraZp _ => ⟨0x05, .ora, .zeroPage, 3, false, false⟩
  | .oraZpx _ => ⟨0x15, .ora, .zeroPageX, 4, false, false⟩
  | .oraAbs _ => ⟨0x0D, .ora, .absolute, 4, false, false⟩
  | .oraAbx _ => ⟨0x1D, .ora, .absoluteX, 4, true, false⟩
  | .oraAby _ => ⟨0x19, .ora, .absoluteY, 4, true, false⟩
  | .oraIzx _ => ⟨0x01, .ora, .indirectX, 6, false, false⟩
  | .oraIzy _ => ⟨0x11, .ora, .indirectY, 5, true, false⟩
  | .eorImm _ => ⟨0x49, .eor, .immediate, 2, false, false⟩
  | .eorZp _ => ⟨0x45, .eor, .zeroPage, 3, false, false⟩
  | .eorZpx _ => ⟨0x55, .eor, .zeroPageX, 4, false, false⟩
  | .eorAbs _ => ⟨0x4D, .eor, .absolute, 4, false, false⟩
  | .eorAbx _ => ⟨0x5D, .eor, .absoluteX, 4, true, false⟩
  | .eorAby _ => ⟨0x59, .eor, .absoluteY, 4, true, false⟩
  | .eorIzx _ => ⟨0x41, .eor, .indirectX, 6, false, false⟩
  | .eorIzy _ => ⟨0x51, .eor, .indirectY, 5, true, false⟩
  | .bitZp _ => ⟨0x24, .bit, .zeroPage, 3, false, false⟩
  | .bitAbs _ => ⟨0x2C, .bit, .absolute, 4, false, false⟩
  | .adcImm _ => ⟨0x69, .adc, .immediate, 2, false, false⟩
  | .adcZp _ => ⟨0x65, .adc, .zeroPage, 3, false, false⟩
  | .adcZpx _ => ⟨0x75, .adc, .zeroPageX, 4, false, false⟩
  | .adcAbs _ => ⟨0x6D, .adc, .absolute, 4, false, false⟩
  | .adcAbx _ => ⟨0x7D, .adc, .absoluteX, 4, true, false⟩
  | .adcAby _ => ⟨0x79, .adc, .absoluteY, 4, true, false⟩
  | .adcIzx _ => ⟨0x61, .adc, .indirectX, 6, false, false⟩
  | .adcIzy _ => ⟨0x71, .adc, .indirectY, 5, true, false⟩
  | .sbcImm _ => ⟨0xE9, .sbc, .immediate, 2, false, false⟩
  | .sbcZp _ => ⟨0xE5, .sbc, .zeroPage, 3, false, false⟩
  | .sbcZpx _ => ⟨0xF5, .sbc, .zeroPageX, 4, false, false⟩
  | .sbcAbs _ => ⟨0xED, .sbc, .absolute, 4, false, false⟩
  | .sbcAbx _ => ⟨0xFD, .sbc, .absoluteX, 4, true, false⟩
  | .sbcAby _ => ⟨0xF9, .sbc, .absoluteY, 4, true, false⟩
  | .sbcIzx _ => ⟨0xE1, .sbc, .indirectX, 6, false, false⟩
  | .sbcIzy _ => ⟨0xF1, .sbc, .indirectY, 5, true, false⟩
  | .aslAcc => ⟨0x0A, .asl, .accumulator, 2, false, false⟩
  | .aslZp _ => ⟨0x06, .asl, .zeroPage, 5, false, true⟩
  | .aslZpx _ => ⟨0x16, .asl, .zeroPageX, 6, false, true⟩
  | .aslAbs _ => ⟨0x0E, .asl, .absolute, 6, false, true⟩
  | .aslAbx _ => ⟨0x1E, .asl, .absoluteX, 7, false, true⟩
  | .lsrAcc => ⟨0x4A, .lsr, .accumulator, 2, false, false⟩
  | .lsrZp _ => ⟨0x46, .lsr, .zeroPage, 5, false, true⟩
  | .lsrZpx _ => ⟨0x56, .lsr, .zeroPageX, 6, false, true⟩
  | .lsrAbs _ => ⟨0x4E, .lsr, .absolute, 6, false, true⟩
  | .lsrAbx _ => ⟨0x5E, .lsr, .absoluteX, 7, false, true⟩
  | .rolAcc => ⟨0x2A, .rol, .accumulator, 2, false, false⟩
  | .rolZp _ => ⟨0x26, .rol, .zeroPage, 5, false, true⟩
  | .rolZpx _ => ⟨0x36, .rol, .zeroPageX, 6, false, true⟩
  | .rolAbs _ => ⟨0x2E, .rol, .absolute, 6, false, true⟩
  | .rolAbx _ => ⟨0x3E, .rol, .absoluteX, 7, false, true⟩
  | .rorAcc => ⟨0x6A, .ror, .accumulator, 2, false, false⟩
  | .rorZp _ => ⟨0x66, .ror, .zeroPage, 5, false, true⟩
  | .rorZpx _ => ⟨0x76, .ror, .zeroPageX, 6, false, true⟩
  | .rorAbs _ => ⟨0x6E, .ror, .absolute, 6, false, true⟩
  | .rorAbx _ => ⟨0x7E, .ror, .absoluteX, 7, false, true⟩
  | .cmpImm _ => ⟨0xC9, .cmp, .immediate, 2, false, false⟩
  | .cmpZp _ => ⟨0xC5, .cmp, .zeroPage, 3, false, false⟩
  | .cmpZpx _ => ⟨0xD5, .cmp, .zeroPageX, 4, false, false⟩
  | .cmpAbs _ => ⟨0xCD, .cmp, .absolute, 4, false, false⟩
  | .cmpAbx _ => ⟨0xDD, .cmp, .absoluteX, 4, true, false⟩
  | .cmpAby _ => ⟨0xD9, .cmp, .absoluteY, 4, true, false⟩
  | .cmpIzx _ => ⟨0xC1, .cmp, .indirectX, 6, false, false⟩
  | .cmpIzy _ => ⟨0xD1, .cmp, .indirectY, 5, true, false⟩
  | .cpxImm _ => ⟨0xE0, .cpx, .immediate, 2, false, false⟩
  | .cpxZp _ => ⟨0xE4, .cpx, .zeroPage, 3, false, false⟩
  | .cpxAbs _ => ⟨0xEC, .cpx, .absolute, 4, false, false⟩
  | .cpyImm _ => ⟨0xC0, .cpy, .immediate, 2, false, false⟩
  | .cpyZp _ => ⟨0xC4, .cpy, .zeroPage, 3, false, false⟩
  | .cpyAbs _ => ⟨0xCC, .cpy, .absolute, 4, false, false⟩
  | .incZp _ => ⟨0xE6, .inc, .zeroPage, 5, false, true⟩
  | .incZpx _ => ⟨0xF6, .inc, .zeroPageX, 6, false, true⟩
  | .incAbs _ => ⟨0xEE, .inc, .absolute, 6, false, true⟩
  | .incAbx _ => ⟨0xFE, .inc, .absoluteX, 7, false, true⟩
  | .decZp _ => ⟨0xC6, .dec, .zeroPage, 5, false, true⟩
  | .decZpx _ => ⟨0xD6, .dec, .zeroPageX, 6, false, true⟩
  | .decAbs _ => ⟨0xCE, .dec, .absolute, 6, false, true⟩
  | .decAbx _ => ⟨0xDE, .dec, .absoluteX, 7, false, true⟩
  | .inx => ⟨0xE8, .inx, .implied, 2, false, false⟩
  | .iny => ⟨0xC8, .iny, .implied, 2, false, false⟩
  | .dex => ⟨0xCA, .dex, .implied, 2, false, false⟩
  | .dey => ⟨0x88, .dey, .implied, 2, false, false⟩
  | .bpl _ => ⟨0x10, .bpl, .relative, 2, false, false⟩
  | .bmi _ => ⟨0x30, .bmi, .relative, 2, false, false⟩
  | .bvc _ => ⟨0x50, .bvc, .relative, 2, false, false⟩
  | .bvs _ => ⟨0x70, .bvs, .relative, 2, false, false⟩
  | .bcc _ => ⟨0x90, .bcc, .relative, 2, false, false⟩
  | .bcs _ => ⟨0xB0, .bcs, .relative, 2, false, false⟩
  | .bne _ => ⟨0xD0, .bne, .relative, 2, false, false⟩
  | .beq _ => ⟨0xF0, .beq, .relative, 2, false, false⟩
  | .jmpAbs _ => ⟨0x4C, .jmp, .absolute, 3, false, false⟩
  | .jmpInd _ => ⟨0x6C, .jmp, .indirect, 5, false, false⟩
  | .jsr _ => ⟨0x20, .jsr, .absolute, 6, false, false⟩
  | .rts => ⟨0x60, .rts, .implied, 6, false, false⟩
  | .brk => ⟨0x00, .brk, .implied, 7, false, false⟩
  | .rti => ⟨0x40, .rti, .implied, 6, false, false⟩
  | .clc => ⟨0x18, .clc, .implied, 2, false, false⟩
  | .sec => ⟨0x38, .sec, .implied, 2, false, false⟩
  | .cli => ⟨0x58, .cli, .implied, 2, false, false⟩
  | .sei => ⟨0x78, .sei, .implied, 2, false, false⟩
  | .clv => ⟨0xB8, .clv, .implied, 2, false, false⟩
  | .cld => ⟨0xD8, .cld, .implied, 2, false, false⟩
  | .sed => ⟨0xF8, .sed, .implied, 2, false, false⟩
  | .nop => ⟨0xEA, .nop, .implied, 2, false, false⟩

/-! ## Encoding -/

/-- The operand bytes of an instruction, low byte first (R100, R103). -/
def Instr.operandBytes : Instr → List Byte
  | .tax | .txa | .tay | .tya | .tsx | .txs | .pha | .pla | .php | .plp | .aslAcc | .lsrAcc | .rolAcc
  | .rorAcc | .inx | .iny | .dex | .dey | .rts | .brk | .rti | .clc | .sec | .cli | .sei | .clv | .cld | .sed
  | .nop => []
  | .ldaImm b | .ldaZp b | .ldaZpx b | .ldaIzx b | .ldaIzy b | .ldxImm b | .ldxZp b | .ldxZpy b | .ldyImm b
  | .ldyZp b | .ldyZpx b | .staZp b | .staZpx b | .staIzx b | .staIzy b | .stxZp b | .stxZpy b | .styZp b
  | .styZpx b | .andImm b | .andZp b | .andZpx b | .andIzx b | .andIzy b | .oraImm b | .oraZp b | .oraZpx b
  | .oraIzx b | .oraIzy b | .eorImm b | .eorZp b | .eorZpx b | .eorIzx b | .eorIzy b | .bitZp b | .adcImm b
  | .adcZp b | .adcZpx b | .adcIzx b | .adcIzy b | .sbcImm b | .sbcZp b | .sbcZpx b | .sbcIzx b | .sbcIzy b
  | .aslZp b | .aslZpx b | .lsrZp b | .lsrZpx b | .rolZp b | .rolZpx b | .rorZp b | .rorZpx b | .cmpImm b
  | .cmpZp b | .cmpZpx b | .cmpIzx b | .cmpIzy b | .cpxImm b | .cpxZp b | .cpyImm b | .cpyZp b | .incZp b
  | .incZpx b | .decZp b | .decZpx b | .bpl b | .bmi b | .bvc b | .bvs b | .bcc b | .bcs b | .bne b | .beq b => [b]
  | .ldaAbs a | .ldaAbx a | .ldaAby a | .ldxAbs a | .ldxAby a | .ldyAbs a | .ldyAbx a | .staAbs a | .staAbx a
  | .staAby a | .stxAbs a | .styAbs a | .andAbs a | .andAbx a | .andAby a | .oraAbs a | .oraAbx a | .oraAby a
  | .eorAbs a | .eorAbx a | .eorAby a | .bitAbs a | .adcAbs a | .adcAbx a | .adcAby a | .sbcAbs a | .sbcAbx a
  | .sbcAby a | .aslAbs a | .aslAbx a | .lsrAbs a | .lsrAbx a | .rolAbs a | .rolAbx a | .rorAbs a | .rorAbx a
  | .cmpAbs a | .cmpAbx a | .cmpAby a | .cpxAbs a | .cpyAbs a | .incAbs a | .incAbx a | .decAbs a | .decAbx a
  | .jmpAbs a | .jmpInd a | .jsr a => [loByte a, hiByte a]

/-- The encoder: the opcode byte of the instruction's row, then its operand bytes (R100). -/
def encode (i : Instr) : List Byte := i.row.opcode :: i.operandBytes

/-! ## The host's view of the table -/

/-- The three bytes of an instruction whose bits are `w`, numbered as the table numbers them: byte `k` is bits
`8k+7 .. 8k`, and every bit from `nbits` up is 0. -/
def tableBytes (nbits w : Nat) : List Byte :=
  let v := w % 2 ^ nbits
  [BitVec.ofNat 8 v, BitVec.ofNat 8 (v / 256), BitVec.ofNat 8 (v / 65536)]

/-- The instruction the decoder reads from those bytes. -/
def decodeTableWord (nbits w : Nat) : Option Instr :=
  match decode (tableBytes nbits w) with
  | .ok (i, _) => some i
  | .error _ => none

end Sys2Proof
end

