-- ==== Sys2Proof/Machine/Memory.lean ====
section
/-! DEFINITION. A memory: a list of (address, byte) pairs in one canonical form, addresses strictly rising and no entry
equal to what an unlisted address reads as. Internal RAM, PRG-RAM, CHR-RAM, PRG-ROM and CHR-ROM
(spec/10_state.md R29, R32) are each one of these, keyed by the cell's index in its own array. -/

namespace Sys2Proof.Machine

/-- A sparse array of bytes. -/
abbrev Memory := List Host.Cell

/-- What an unlisted cell reads as. CHR-RAM: R44 "all zero". Internal RAM and PRG-RAM: the power-up contents are open
(R43), and a list can hold any contents; that the EMPTY list is all zero is a DESIGN CHOICE (log entry 2). -/
def Memory.unlisted : Byte := 0x00

/-- The byte in cell `k`. -/
def Memory.read : Memory → Nat → Byte
  | [], _ => Memory.unlisted
  | (a, v) :: m, k => if a = k then v else Memory.read m k

/-- The array with no entry for cell `k`. -/
def Memory.erase : Memory → Nat → Memory
  | [], _ => []
  | (a, w) :: m, k => if a = k then Memory.erase m k else (a, w) :: Memory.erase m k

/-- An entry put in its place by address. -/
def Memory.insert : Memory → Nat → Byte → Memory
  | [], k, v => [(k, v)]
  | (a, w) :: m, k, v => if k < a then (k, v) :: (a, w) :: m else (a, w) :: Memory.insert m k v

/-- `k <- v`, keeping the canonical form: writing the unlisted byte removes the entry. -/
def Memory.write (m : Memory) (k : Nat) (v : Byte) : Memory :=
  if v = Memory.unlisted then Memory.erase m k else Memory.insert (Memory.erase m k) k v

/-- The canonical form from cell `lo` up, all cells below `size`. -/
def Memory.wfFrom (size lo : Nat) : Memory → Bool
  | [] => true
  | (a, v) :: m => lo ≤ a && a < size && v != Memory.unlisted && Memory.wfFrom size (a + 1) m

/-- The canonical form of an array of `size` cells. -/
def Memory.wf (size : Nat) (m : Memory) : Bool := Memory.wfFrom size 0 m

/-- The cells of a list of bytes placed from index `k` up. -/
def Memory.ofBytesFrom : Nat → List Byte → Memory
  | _, [] => []
  | k, b :: bs => if b = Memory.unlisted then Memory.ofBytesFrom (k + 1) bs else (k, b) :: Memory.ofBytesFrom (k + 1) bs

/-- The array whose cell `i` is byte `i` of the list. -/
def Memory.ofBytes (bs : List Byte) : Memory := Memory.ofBytesFrom 0 bs

end Sys2Proof.Machine
end

