-- ==== Sys2Proof/Machine/Cartridge.lean ====
section
/-! DEFINITION. The cartridge: its state (spec/10_state.md R31 to R38), the image loader (spec/20_memory.md R70 to R72),
NROM (R73 to R78) and MMC1 (R80 to R89), behind the four uniform operations of R90. -/

namespace Sys2Proof.Machine

/-- The MMC1 registers (spec/10_state.md R34 to R38). -/
structure Mmc1 where
  shift    : BitVec 5
  count    : Nat
  control  : BitVec 5
  chrBank0 : BitVec 5
  chrBank1 : BitVec 5
  prgBank  : BitVec 5
  deriving DecidableEq, Repr

/-- The mapper and its registers: mapper 0 has none (R34), mapper 1 has the MMC1's. -/
inductive Board where
  | nrom
  | mmc1 (r : Mmc1)
  deriving DecidableEq, Repr

/-- The cartridge: configuration, mapper, mirroring output and the four buffers (R31 to R33). -/
structure Cart where
  config    : CartConfig
  board     : Board
  mirroring : Mirroring
  prgRom    : Memory
  chrRom    : Memory
  prgRam    : Memory
  chrRam    : Memory
  deriving DecidableEq, Repr

/-- Why a cartridge image is refused (spec/20_memory.md R71). No machine exists then. -/
inductive ImageRefusal where
  | invalidHeader
  | truncated
  | unsupportedMapper
  deriving DecidableEq, Repr

/-! ## Derived sizes (spec/10_state.md R31, R32) -/

/-- `mapper`: 0 or 1. -/
def Board.number : Board → Nat
  | .nrom => 0
  | .mmc1 _ => 1

/-- `prg_size`. -/
def prgSize (c : CartConfig) : Nat := c.prgBanks16k * 0x4000

/-- `chr_is_ram`. -/
def chrIsRam (c : CartConfig) : Bool := c.chrBanks8k == 0

/-- `chr_size`: CHR-ROM's size, or the 8 KiB of CHR-RAM. -/
def chrSize (c : CartConfig) : Nat := if chrIsRam c then 0x2000 else c.chrBanks8k * 0x2000

/-- The size of the PRG-RAM buffer (R32). -/
def prgRamSize : Nat := 0x2000

/-! ## Loading an image (spec/20_memory.md R70 to R72) -/

/-- Byte `i` of the image. -/
def imageByte (buf : List Byte) (i : Nat) : Byte := buf.getD i 0

/-- "Mapper number = `(flags7 & 0xF0) | (flags6 >> 4)`" (R70). -/
def imageMapper (buf : List Byte) : Byte := (imageByte buf 7 &&& 0xF0#8) ||| (imageByte buf 6 >>> 4)

/-- The mirroring flags6 names (R70). -/
def imageMirroring (buf : List Byte) : Mirroring :=
  if (imageByte buf 6).getLsbD 3 then .fourScreen else if (imageByte buf 6).getLsbD 0 then .vertical else .horizontal

/-- The header's configuration (R70): `has_prg_ram` is true for mapper 1, else the battery bit. -/
def imageConfig (buf : List Byte) : CartConfig :=
  { prgBanks16k   := (imageByte buf 4).toNat
    chrBanks8k    := (imageByte buf 5).toNat
    hasPrgRam     := imageMapper buf == 1 || (imageByte buf 6).getLsbD 1
    mirroringInit := imageMirroring buf }

/-- Where PRG-ROM starts in the image: after the header and, if there is one, the trainer (R70, R72). -/
def imagePrgStart (buf : List Byte) : Nat := if (imageByte buf 6).getLsbD 2 then 16 + 512 else 16

/-- MMC1 at power-on (spec/10_state.md R44). -/
def Mmc1.powerOn : Mmc1 :=
  { shift := 0, count := 0, control := Config.mmc1PowerOnControl, chrBank0 := 0, chrBank1 := 0, prgBank := 0 }

/-- The mapper a header names, if it is one of the two (R71 (3)). -/
def imageBoard (buf : List Byte) : Option Board :=
  if imageMapper buf = 0 then some .nrom else if imageMapper buf = 1 then some (.mmc1 Mmc1.powerOn) else none

/-- A cartridge at power-up (spec/10_state.md R44): the ROMs given, CHR-RAM zero, `mirroring = mirroring_init`, and
`PRG_RAM_INIT` in PRG-RAM where there is one (R32). -/
def Cart.powerUp (config : CartConfig) (board : Board) (prgRom chrRom prgRamInit : Memory) : Cart :=
  { config, board, mirroring := config.mirroringInit, prgRom, chrRom
    prgRam := if config.hasPrgRam then prgRamInit else [], chrRam := [] }

/-- The number of bytes the header declares (R71 (5)). -/
def imageLength (buf : List Byte) : Nat :=
  imagePrgStart buf + prgSize (imageConfig buf) + (imageConfig buf).chrBanks8k * 0x2000

/-- Loading: the refusals of R71 in their order, else the cartridge of R70, R72 and R44. -/
def loadImage (buf : List Byte) (prgRamInit : Memory) : Except ImageRefusal Cart :=
  if buf.take 4 ≠ [0x4E, 0x45, 0x53, 0x1A] then .error .invalidHeader
  else if buf.length < 16 then .error .truncated
  else
    match imageBoard buf with
    | none => .error .unsupportedMapper
    | some board =>
      let c := imageConfig buf
      if c.prgBanks16k = 0 then .error .invalidHeader
      else if buf.length < imageLength buf then .error .truncated
      else
        let prg := buf.drop (imagePrgStart buf)
        .ok (Cart.powerUp c board
          (Memory.ofBytes (prg.take (prgSize c)))
          (Memory.ofBytes ((prg.drop (prgSize c)).take (c.chrBanks8k * 0x2000)))
          prgRamInit)

/-! ## The CPU side -/

/-- `mmc1.control[3:2]`, the PRG mode (spec/10_state.md R35). -/
def Mmc1.prgMode (r : Mmc1) : BitVec 2 := r.control.extractLsb' 2 2

/-- `mmc1.control[4]`, the CHR mode (R35). -/
def Mmc1.chrMode (r : Mmc1) : Bool := r.control.getLsbD 4

/-- The index in `prg_rom` an address of `$8000-$FFFF` reads under MMC1 (spec/20_memory.md R85). -/
def Mmc1.prgIndex (r : Mmc1) (c : CartConfig) (a : Word) : Nat :=
  let o := (a &&& 0x3FFF).toNat
  let b := (r.prgBank &&& 0x0F).toNat
  let even := (r.prgBank &&& 0x0E).toNat
  let lower := a.toNat < 0xC000
  if r.prgMode = 3 then
    if lower then (b * 0x4000 + o) % prgSize c else (c.prgBanks16k - 1) * 0x4000 + o
  else if r.prgMode = 2 then
    if lower then o else (b * 0x4000 + o) % prgSize c
  else
    if lower then (even * 0x4000 + o) % prgSize c else ((even + 1) * 0x4000 + o) % prgSize c

/-- The index in `prg_rom` an address of `$8000-$FFFF` reads: NROM R73, MMC1 R85. -/
def Cart.prgIndex (c : Cart) (a : Word) : Nat :=
  match c.board with
  | .nrom => (a.toNat - 0x8000) % prgSize c.config
  | .mmc1 r => r.prgIndex c.config a

/-- Whether `$6000-$7FFF` holds PRG-RAM: NROM if present (R75), MMC1 always (R86). -/
def Cart.prgRamPresent (c : Cart) : Bool :=
  match c.board with
  | .nrom => c.config.hasPrgRam
  | .mmc1 _ => true

/-- `cpu_read` (R61, R73, R75, R85, R86). -/
def Cart.cpuRead (c : Cart) (a : Word) : Byte :=
  if a.toNat < 0x6000 then Config.openBusValue
  else if a.toNat < 0x8000 then
    if c.prgRamPresent then c.prgRam.read (a.toNat - 0x6000) else Config.openBusValue
  else c.prgRom.read (c.prgIndex a)

/-- The mirroring a control value names (R83). -/
def mirroringOf (control : BitVec 5) : Mirroring :=
  if control.extractLsb' 0 2 = (0 : BitVec 2) then .oneScreenLow
  else if control.extractLsb' 0 2 = (1 : BitVec 2) then .oneScreenHigh
  else if control.extractLsb' 0 2 = (2 : BitVec 2) then .vertical
  else .horizontal

/-- The reset write (R80). -/
def Mmc1.resetWrite (r : Mmc1) : Mmc1 := { r with shift := 0, count := 0, control := r.control ||| 0x0C }

/-- `mmc1.shift | (v[0] << n)`. -/
def Mmc1.shifted (r : Mmc1) (v : Byte) (n : Nat) : BitVec 5 :=
  r.shift ||| ((BitVec.ofBool (v.getLsbD 0)).setWidth 5 <<< n)

/-- The first to fourth data write (R81). -/
def Mmc1.dataWrite (r : Mmc1) (v : Byte) : Mmc1 :=
  { r with shift := r.shifted v r.count, count := r.count + 1 }

/-- `addr[14:13]`, the register a commit selects (R82). -/
def commitSelect (a : Word) : BitVec 2 := a.extractLsb' 13 2

/-- The commit (R82), but for the mirroring output. -/
def Mmc1.commit (r : Mmc1) (a : Word) (value : BitVec 5) : Mmc1 :=
  let done := { r with shift := 0, count := 0 }
  if commitSelect a = 0 then { done with control := value }
  else if commitSelect a = 1 then { done with chrBank0 := value }
  else if commitSelect a = 2 then { done with chrBank1 := value }
  else { done with prgBank := value }

/-- A CPU write of `v` to `$8000-$FFFF` under MMC1 (R87): the reset write R80, a data write R81, or the commit R82 with
the mirroring of R83. -/
def Cart.mmc1Write (c : Cart) (r : Mmc1) (a : Word) (v : Byte) : Cart :=
  if v.getLsbD 7 then { c with board := .mmc1 r.resetWrite }
  else if r.count < 4 then { c with board := .mmc1 (r.dataWrite v) }
  else
    let value := r.shifted v 4
    { c with
      board := .mmc1 (r.commit a value)
      mirroring := if commitSelect a = 0 then mirroringOf value else c.mirroring }

/-- `cpu_write` (R61, R74, R75, R86, R87). -/
def Cart.cpuWrite (c : Cart) (a : Word) (v : Byte) : Cart :=
  if a.toNat < 0x6000 then c
  else if a.toNat < 0x8000 then
    if c.prgRamPresent then { c with prgRam := c.prgRam.write (a.toNat - 0x6000) v } else c
  else
    match c.board with
    | .nrom => c
    | .mmc1 r => c.mmc1Write r a v

/-! ## The PPU side -/

/-- The index in CHR memory a PPU-side address names: NROM R76, MMC1 R88. -/
def Cart.chrIndex (c : Cart) (addr : Word) : Nat :=
  let a := (addr &&& 0x1FFF).toNat
  match c.board with
  | .nrom => a % chrSize c.config
  | .mmc1 r =>
    if r.chrMode then
      if a < 0x1000 then (r.chrBank0.toNat * 0x1000 + a) % chrSize c.config
      else (r.chrBank1.toNat * 0x1000 + (addr &&& 0x0FFF).toNat) % chrSize c.config
    else ((r.chrBank0 >>> 1).toNat * 0x2000 + a) % chrSize c.config

/-- `ppu_read` (R76, R88). -/
def Cart.ppuRead (c : Cart) (addr : Word) : Byte :=
  if chrIsRam c.config then c.chrRam.read (c.chrIndex addr) else c.chrRom.read (c.chrIndex addr)

/-- `ppu_write` (R77, R89): CHR-RAM takes the byte, CHR-ROM drops it. -/
def Cart.ppuWrite (c : Cart) (addr : Word) (v : Byte) : Cart :=
  if chrIsRam c.config then { c with chrRam := c.chrRam.write (c.chrIndex addr) v } else c

/-- The cartridge of `State.reset` (DESIGN CHOICE, log entry 1): a blank NROM image, every PRG byte zero. -/
def Cart.blank : Cart := Cart.powerUp Config.blankCartridge .nrom [] [] []

end Sys2Proof.Machine
end

