-- ==== Sys2Proof/Machine/State.lean ====
section
/-! DEFINITION. The machine's state (spec/10_state.md R20 to R40), the inputs and outputs of spec/00_scope.md R8 and R9 as
plain data, why a step can stop, and the state after reset (R42 to R44). -/

namespace Sys2Proof.Machine

/-- One bus transaction (spec/70_reset_and_hazards.md R306): `R addr=value` or `W addr=value`. -/
inductive BusTxn where
  | read  (addr : Word) (value : Byte)
  | write (addr : Word) (value : Byte)
  deriving DecidableEq, Repr

/-- One call of a port to the environment (spec/00_scope.md R10): what was asked, and what was answered or sent. -/
inductive PortCall where
  | pollNmi         (level : Bool)
  | ppuRead         (reg : BitVec 3) (answer : Byte)
  | ppuWrite        (reg : BitVec 3) (value : Byte)
  | apuRead         (answer : Byte)
  | apuWrite        (addr : Word) (value : Byte)
  | controller1Read (answer : Byte)
  | controller2Read (answer : Byte)
  | controller1Write (strobe : Bool)
  | controller2Write (strobe : Bool)
  deriving DecidableEq, Repr

/-- What the environment will answer (spec/00_scope.md R9), as data a claim can range over (log entries 3 and 4). -/
structure Env where
  /-- The NMI line's level once `nmiPlan` is used up. -/
  nmiLine     : Bool
  /-- The levels the coming `PollNmi()` calls return, in order. -/
  nmiPlan     : List Bool
  /-- The levels the host gives `irq_line` before each coming step, in order. -/
  irqPlan     : List Bool
  /-- The bytes the coming port reads return, in order. -/
  portAnswers : List Byte
  /-- How many port reads have been answered: the argument of the free value `Config.freePortByte`. -/
  portReads   : Nat
  deriving DecidableEq, Repr

/-- What the block has shown the outside (log entry 9). -/
structure Out where
  /-- The bus transactions of the step in progress or just ended, newest first. -/
  bus      : List BusTxn
  /-- Every port call since power-up, newest first. -/
  ports    : List PortCall
  /-- The cycle count the step returned (spec/40_addressing_modes.md R133). -/
  returned : Option Nat
  deriving DecidableEq, Repr

/-- The state of the block. -/
structure State where
  a          : Byte
  x          : Byte
  y          : Byte
  sp         : Byte
  p          : Byte
  pc         : Word
  cycles     : BitVec 64
  nmiPending : Bool
  nmiPrev    : Bool
  irqLine    : Bool
  halted     : Bool
  dmaPage    : Option Byte
  ram        : Memory
  cart       : Cart
  env        : Env
  out        : Out
  deriving DecidableEq, Repr

/-- Why a step stops the machine. -/
inductive Fault where
  /-- An undocumented opcode byte was fetched (spec/60_exceptions.md R262); raised by `step`. The spec's own fault:
  neither safe nor unsafe, it is what the hardware does. -/
  | badOpcode (op : Byte) (pc : Word)
  /-- The machine is halted by an earlier BadOpcode and takes no step (R251 (1)); raised by `step`. The spec's own. -/
  | halted
  deriving DecidableEq, Repr

/-- Why an instruction has no meaning. -/
inductive Refusal where
  /-- Raised by an arm of `exec` whose instruction has no meaning yet; no arm does. Safe. -/
  | notModelled (mnemonic : String)
  deriving DecidableEq, Repr

/-- The size of internal RAM (spec/10_state.md R29). -/
def ramSize : Nat := 0x800

/-- The idle environment (DESIGN CHOICE, log entries 3 and 4): both lines low, nothing planned. -/
def Env.idle : Env := { nmiLine := false, nmiPlan := [], irqPlan := [], portAnswers := [], portReads := 0 }

/-- The machine right after power-up with the cartridge and RAM contents given (spec/70_reset_and_hazards.md R300 (3),
spec/10_state.md R42, R43): the vector is read through the cartridge, low byte first. -/
def State.powerUp (cart : Cart) (ramInit : Memory) (env : Env) : State :=
  let l := cart.cpuRead 0xFFFC
  let h := cart.cpuRead 0xFFFD
  { a := 0, x := 0, y := 0, sp := 0xFD, p := 0x24, pc := wordOf h l, cycles := 7
    nmiPending := false, nmiPrev := false, irqLine := false, halted := false, dmaPage := none
    ram := ramInit, cart := cart, env := env
    out := { bus := [.read 0xFFFD h, .read 0xFFFC l], ports := [], returned := none } }

/-- The machine right after reset with nothing placed: the blank cartridge, RAM all zero, the idle environment
(DESIGN CHOICE, log entries 1, 2 and 3; every other field is as R42 to R44 state). -/
def State.reset : State := State.powerUp Cart.blank [] Env.idle

end Sys2Proof.Machine
end

