-- ==== Sys2Proof/Machine/Ops.lean ====
section
/-! DEFINITION. The named operations every meaning is written over: register writes, the ports, the bus decoder
(spec/20_memory.md R53, R54), the stack, the NMI line, OAMDMA and the end of a step, and the one interrupt entry NMI,
IRQ and BRK share with the return from it (spec/60_exceptions.md R258, R261). -/

namespace Sys2Proof.Machine

namespace State

/-! ## Register and field writes -/

/-- `A <- v`. -/
def setA (v : Byte) (s : State) : State := { s with a := v }

/-- `X <- v`. -/
def setX (v : Byte) (s : State) : State := { s with x := v }

/-- `Y <- v`. -/
def setY (v : Byte) (s : State) : State := { s with y := v }

/-- `SP <- v`. -/
def setSP (v : Byte) (s : State) : State := { s with sp := v }

/-- `P <- v`. -/
def setP (v : Byte) (s : State) : State := { s with p := v }

/-- `PC <- w`. -/
def setPC (w : Word) (s : State) : State := { s with pc := w }

/-- `cycles <- c`. -/
def setCycles (c : BitVec 64) (s : State) : State := { s with cycles := c }

/-- `nmi_pending <- b`. -/
def setNmiPending (b : Bool) (s : State) : State := { s with nmiPending := b }

/-- `nmi_prev <- b`. -/
def setNmiPrev (b : Bool) (s : State) : State := { s with nmiPrev := b }

/-- `irq_line <- b`: the host's act between steps (spec/70_reset_and_hazards.md R314 (4)). -/
def setIrqLine (b : Bool) (s : State) : State := { s with irqLine := b }

/-- `halted <- b`. -/
def setHalted (b : Bool) (s : State) : State := { s with halted := b }

/-- `dma_page <- d`. -/
def setDmaPage (d : Option Byte) (s : State) : State := { s with dmaPage := d }

/-- Internal RAM replaced. -/
def setRam (m : Memory) (s : State) : State := { s with ram := m }

/-- The cartridge replaced. -/
def setCart (c : Cart) (s : State) : State := { s with cart := c }

/-- The environment's plan replaced. -/
def setEnv (e : Env) (s : State) : State := { s with env := e }

/-- The outputs replaced. -/
def setOut (o : Out) (s : State) : State := { s with out := o }

/-- A bus transaction recorded. -/
def logBus (t : BusTxn) (s : State) : State := s.setOut { s.out with bus := t :: s.out.bus }

/-- A port call recorded (spec/00_scope.md R9 (d)). -/
def logPort (c : PortCall) (s : State) : State := s.setOut { s.out with ports := c :: s.out.ports }

/-- The count the step returns recorded. -/
def setReturned (n : Option Nat) (s : State) : State := s.setOut { s.out with returned := n }

end State

/-! ## Ports -/

/-- The byte the next port read returns (R9 (c)): the environment's next answer, else the free value. -/
def portAnswer (s : State) : Byte :=
  match s.env.portAnswers with
  | [] => Config.freePortByte s.env.portReads
  | b :: _ => b

/-- One port read: its answer is used up and the call recorded as `call` makes it. -/
def portRead (call : Byte → PortCall) (s : State) : Byte × State :=
  (portAnswer s,
    (s.setEnv { s.env with portAnswers := s.env.portAnswers.tail, portReads := s.env.portReads + 1 }).logPort
      (call (portAnswer s)))

/-! ## The bus decoder -/

/-- The target of a read (R53). -/
inductive ReadTarget where
  | ram (cell : Nat)
  | ppu (reg : BitVec 3)
  | apuStatus
  | controller1
  | controller2
  | openBus
  | cartridge
  deriving DecidableEq, Repr

/-- The target of a write (R54). -/
inductive WriteTarget where
  | ram (cell : Nat)
  | ppu (reg : BitVec 3)
  | apu
  | oamDma
  | controllers
  | nothing
  | cartridge
  deriving DecidableEq, Repr

/-- The RAM cell an address of `$0000-$1FFF` names: `addr & $07FF` (R55). -/
def ramCell (a : Word) : Nat := (a &&& 0x07FF).toNat

/-- The PPU register an address of `$2000-$3FFF` names: `addr & 7` (R56). -/
def ppuReg (a : Word) : BitVec 3 := a.setWidth 3

/-- The table of R53. -/
def readTarget (a : Word) : ReadTarget :=
  if a.toNat < 0x2000 then .ram (ramCell a)
  else if a.toNat < 0x4000 then .ppu (ppuReg a)
  else if a.toNat < 0x4015 then .openBus
  else if a.toNat = 0x4015 then .apuStatus
  else if a.toNat = 0x4016 then .controller1
  else if a.toNat = 0x4017 then .controller2
  else if a.toNat < 0x4020 then .openBus
  else .cartridge

/-- The table of R54. -/
def writeTarget (a : Word) : WriteTarget :=
  if a.toNat < 0x2000 then .ram (ramCell a)
  else if a.toNat < 0x4000 then .ppu (ppuReg a)
  else if a.toNat < 0x4014 then .apu
  else if a.toNat = 0x4014 then .oamDma
  else if a.toNat = 0x4015 then .apu
  else if a.toNat = 0x4016 then .controllers
  else if a.toNat = 0x4017 then .apu
  else if a.toNat < 0x4020 then .nothing
  else .cartridge

/-- What the target of a read returns and does. -/
def readFrom (a : Word) (s : State) : Byte × State :=
  match readTarget a with
  | .ram cell => (s.ram.read cell, s)
  | .ppu reg => portRead (.ppuRead reg) s
  | .apuStatus => portRead .apuRead s
  | .controller1 => portRead .controller1Read s
  | .controller2 => portRead .controller2Read s
  | .openBus => (Config.openBusValue, s)
  | .cartridge => (s.cart.cpuRead a, s)

/-- What the target of a write does. The strobe of `$4016` goes to both controllers (R59). -/
def writeTo (a : Word) (v : Byte) (s : State) : State :=
  match writeTarget a with
  | .ram cell => s.setRam (s.ram.write cell v)
  | .ppu reg => s.logPort (.ppuWrite reg v)
  | .apu => s.logPort (.apuWrite a v)
  | .oamDma => s.setDmaPage (some v)
  | .controllers => (s.logPort (.controller1Write (v.getLsbD 0))).logPort (.controller2Write (v.getLsbD 0))
  | .nothing => s
  | .cartridge => s.setCart (s.cart.cpuWrite a v)

/-- `Read(addr)` (R53): the byte and the machine after the transaction. -/
def busRead (a : Word) (s : State) : Byte × State :=
  ((readFrom a s).1, (readFrom a s).2.logBus (.read a (readFrom a s).1))

/-- `Write(addr, v)` (R54). -/
def busWrite (a : Word) (v : Byte) (s : State) : State := (writeTo a v s).logBus (.write a v)

/-- `Read16` of two addresses, the low byte's first (R50). -/
def readPair (lo hi : Word) (s : State) : Word × State :=
  let (l, s) := busRead lo s
  let (h, s) := busRead hi s
  (wordOf h l, s)

/-- `Read16(addr)` (R50). -/
def read16 (a : Word) (s : State) : Word × State := readPair a (a + 1) s

/-- The byte at an address with no transaction made: what a read returns at RAM, cartridge and open-bus addresses, and
none at a device port, whose reads are not idempotent (R66). For statements and the debug interface only. -/
def peek (a : Word) (s : State) : Option Byte :=
  match readTarget a with
  | .ram cell => some (s.ram.read cell)
  | .openBus => some Config.openBusValue
  | .cartridge => some (s.cart.cpuRead a)
  | .ppu _ | .apuStatus | .controller1 | .controller2 => none

/-! ## The stack (spec/10_state.md R21) -/

/-- `$0100 | SP`. -/
def stackAddr (sp : Byte) : Word := 0x0100 ||| zext16 sp

/-- `Push(v)`. -/
def push (v : Byte) (s : State) : State :=
  let s := busWrite (stackAddr s.sp) v s
  s.setSP (s.sp - 1)

/-- `Pull()`. -/
def pull (s : State) : Byte × State :=
  let s := s.setSP (s.sp + 1)
  busRead (stackAddr s.sp) s

/-- `Push(w[15:8]); Push(w[7:0])`: the high byte first (R50). -/
def pushWord (w : Word) (s : State) : State := push (loByte w) (push (hiByte w) s)

/-- `l <- Pull(); h <- Pull(); (h:l)`. -/
def pullWord (s : State) : Word × State :=
  let (l, s) := pull s
  let (h, s) := pull s
  (wordOf h l, s)

/-! ## The NMI line and the IRQ line -/

/-- The level the next `PollNmi()` call sees (log entry 3). -/
def nmiLevel (s : State) : Bool :=
  match s.env.nmiPlan with
  | [] => s.env.nmiLine
  | b :: _ => b

/-- `PollNmi()` (spec/60_exceptions.md R253): a rising edge sets the latch. -/
def pollNmi (s : State) : State :=
  let level := nmiLevel s
  let edge := level && !s.nmiPrev
  let s := s.setEnv { s.env with nmiPlan := s.env.nmiPlan.tail }
  let s := s.setNmiPending (s.nmiPending || edge)
  (s.setNmiPrev level).logPort (.pollNmi level)

/-- The level the host gives `irq_line` before a step (log entry 3): the next of the plan, else the level stays. -/
def nextIrq (s : State) : State :=
  match s.env.irqPlan with
  | [] => s
  | b :: bs => (s.setIrqLine b).setEnv { s.env with irqPlan := bs }

/-! ## OAMDMA and the end of a step -/

/-- `n` bytes of the OAMDMA, from address `a` up: each an ordinary read, each sent to PPU register 4
(spec/20_memory.md R63). -/
def dmaCopy : Nat → Word → State → State
  | 0, _, s => s
  | n + 1, a, s =>
    let (b, s) := busRead a s
    dmaCopy n (a + 1) (s.logPort (.ppuWrite 4 b))

/-- The 256 bytes of the OAMDMA from `page << 8`. -/
def oamDma (page : Byte) (s : State) : State := dmaCopy 256 (wordOf page 0) s

/-- `dma_cycles` of R63: 513, or 514 when the cycle counter is odd at the end of the instruction. -/
def dmaCycles (atStart : BitVec 64) : Nat := 513 + atStart.toNat % 2

/-- `cycles` grows by the step's count, which is what the step returns (spec/40_addressing_modes.md R133). -/
def addCycles (n : Nat) (s : State) : State :=
  (s.setCycles (s.cycles + BitVec.ofNat 64 n)).setReturned (some n)

/-- The end of a step whose own count is `n` (R120 (5), (6), R133): the OAMDMA if one was started, then `cycles`. -/
def endStep (n : Nat) (s : State) : State :=
  match s.dmaPage with
  | none => addCycles n s
  | some page => addCycles (n + dmaCycles (s.cycles + BitVec.ofNat 64 n)) ((oamDma page s).setDmaPage none)

/-- The start of a step: the outputs of one step emptied. -/
def beginStep (s : State) : State := s.setOut { s.out with bus := [], returned := none }

/-! ## Taking an interrupt and returning from one -/

/-- The NMI vector (spec/20_memory.md R65). -/
def nmiVector : Word := 0xFFFA

/-- The reset vector. -/
def resetVector : Word := 0xFFFC

/-- The IRQ and BRK vector. -/
def irqVector : Word := 0xFFFE

/-- The hijack (spec/60_exceptions.md R260): NMI is polled again, and if it is then latched its vector is taken and the
latch cleared. -/
def hijack (vector : Word) (s : State) : Word × State :=
  let s := pollNmi s
  if s.nmiPending then (nmiVector, s.setNmiPending false) else (vector, s)

/-- `InterruptEntry(vector, b, hijackable)` (R258), with PC the return address. -/
def interruptEntry (vector : Word) (b hijackable : Bool) (s : State) : State :=
  let s := pushWord s.pc s
  let s := push (pushedStatus b s.p) s
  let (vector, s) := if hijackable then hijack vector s else (vector, s)
  let s := s.setP (setI true s.p)
  let (target, s) := read16 vector s
  s.setPC target

/-- NMI service (R254), but for the end of the step. -/
def serviceNmi (s : State) : State := interruptEntry nmiVector false false (s.setNmiPending false)

/-- IRQ service (R255), but for the end of the step. -/
def serviceIrq (s : State) : State := interruptEntry irqVector false true s

/-- The cycle count of an interrupt entry (R258). -/
def entryCycles : Nat := 7

/-- The pulls of RTI (R261, spec/48_system_flag_nop.md R231): P, then PC, and nothing added. -/
def returnFromInterrupt (s : State) : State :=
  let (v, s) := pull s
  let s := s.setP (pulledStatus v)
  let (target, s) := pullWord s
  s.setPC target

/-! ## Reset of a running machine -/

/-- Reset (spec/70_reset_and_hazards.md R300 (3), R301): the CPU's list, then two ordinary reads of the vector, then
`cycles <- 7`. Everything outside the CPU keeps its value. -/
def resetCpu (s : State) : State :=
  let s := { s with
    a := 0, x := 0, y := 0, sp := 0xFD, p := 0x24
    nmiPending := false, nmiPrev := false, halted := false, dmaPage := none }
  let (target, s) := read16 resetVector (beginStep s)
  (s.setPC target).setCycles 7

/-! ## The PPU side of the cartridge (spec/20_memory.md R90): accesses between steps -/

/-- `ppu_read` as the PPU makes it. -/
def ppuSideRead (addr : Word) (s : State) : Byte := s.cart.ppuRead addr

/-- `ppu_write` as the PPU makes it. -/
def ppuSideWrite (addr : Word) (v : Byte) (s : State) : State := s.setCart (s.cart.ppuWrite addr v)

end Sys2Proof.Machine
end

