-- ==== Sys2Proof/Machine/Operands.lean ====
section
/-! DEFINITION. The thirteen addressing modes (spec/40_addressing_modes.md R121 to R132) and the four shapes of an
instruction with an operand: read, store, read-modify-write, branch. PC is already the address of the next
instruction when these run (R120: all instruction bytes are fetched first). -/

namespace Sys2Proof.Machine

/-- An operand: its mode and the operand bytes R103 assembles. Implied and Accumulator have none, Relative is
`branchTarget`. -/
inductive Operand where
  | immediate (v : Byte)
  | zeroPage  (z : Byte)
  | zeroPageX (z : Byte)
  | zeroPageY (z : Byte)
  | absolute  (a : Word)
  | absoluteX (a : Word)
  | absoluteY (a : Word)
  | indirect  (a : Word)
  | indirectX (z : Byte)
  | indirectY (z : Byte)
  deriving DecidableEq, Repr

/-- An effective address and whether the mode crossed a page. -/
structure Ea where
  addr    : Word
  crossed : Bool
  deriving DecidableEq, Repr

/-- `page(a) != page(b)`. -/
def pageDiffers (a b : Word) : Bool := hiByte a != hiByte b

/-- `base + zext_16(index)` with its page crossing (R129). -/
def indexed (base : Word) (index : Byte) : Ea :=
  { addr := base + zext16 index, crossed := pageDiffers (base + zext16 index) base }

/-- The 16-bit pointer at `z` and `z + 1` in page zero, the second byte wrapping (R131, R132). -/
def zeroPagePointer (z : Byte) (s : State) : Word × State := readPair (zext16 z) (zext16 (z + 1)) s

/-- The pointer of JMP indirect: the second byte from the same page (R130). -/
def indirectPointer (a : Word) (s : State) : Word × State := readPair a (wordOf (hiByte a) (loByte a + 1)) s

/-- The effective address of each mode, and the machine after its pointer reads. Immediate has none and is read by
`readOperand`; its entry here is never used. -/
def effective : Operand → State → Ea × State
  | .immediate _, s => (⟨0, false⟩, s)
  | .zeroPage z, s => (⟨zext16 z, false⟩, s)
  | .zeroPageX z, s => (⟨zext16 (z + s.x), false⟩, s)
  | .zeroPageY z, s => (⟨zext16 (z + s.y), false⟩, s)
  | .absolute a, s => (⟨a, false⟩, s)
  | .absoluteX a, s => (indexed a s.x, s)
  | .absoluteY a, s => (indexed a s.y, s)
  | .indirect a, s =>
    let (target, s) := indirectPointer a s
    (⟨target, false⟩, s)
  | .indirectX z, s =>
    let (target, s) := zeroPagePointer (z + s.x) s
    (⟨target, false⟩, s)
  | .indirectY z, s =>
    let (base, s) := zeroPagePointer z s
    (indexed base s.y, s)

/-- The operand value `M` read through a mode: the value, whether a page was crossed, and the machine after the reads
(R123 for Immediate, `M <- Read(ea)` else). -/
structure Loaded where
  value   : Byte
  crossed : Bool
  after   : State
  deriving DecidableEq, Repr

/-- `M` of an operand. -/
def readOperand (o : Operand) (s : State) : Loaded :=
  match o with
  | .immediate v => { value := v, crossed := false, after := s }
  | o =>
    let (e, s) := effective o s
    let (v, s) := busRead e.addr s
    { value := v, crossed := e.crossed, after := s }

/-- `base + penalty` of R133: 1 more when the opcode is page-penalized and the mode crossed a page (R134). -/
def cyclesOf (base : Nat) (penalized crossed : Bool) : Nat := if penalized && crossed then base + 1 else base

/-- An instruction that reads an operand: `f M` on the machine, then the end of the step. -/
def readInstr (o : Operand) (base : Nat) (penalized : Bool) (f : Byte → State → State) (s : State) :
    Host.Outcome State Fault Refusal :=
  let m := readOperand o s
  .next (endStep (cyclesOf base penalized m.crossed) (f m.value m.after))

/-- An instruction that stores a register: `Write(ea, v)` (R143 to R145). -/
def storeInstr (o : Operand) (base : Nat) (v : State → Byte) (s : State) : Host.Outcome State Fault Refusal :=
  let (e, s) := effective o s
  .next (endStep base (busWrite e.addr (v s) s))

/-- A read-modify-write instruction on memory: one read and one write of `ea`; `f v P` is the result and the new P
(spec/45_shifts.md, spec/46_compare_incdec.md R203). -/
def rmwInstr (o : Operand) (base : Nat) (f : Byte → Byte → Byte × Byte) (s : State) :
    Host.Outcome State Fault Refusal :=
  let (e, s) := effective o s
  let (v, s) := busRead e.addr s
  let (r, p) := f v s.p
  .next (endStep base ((busWrite e.addr r s).setP p))

/-- The same on the accumulator (R122): 2 cycles, no memory access. -/
def accInstr (f : Byte → Byte → Byte × Byte) (s : State) : Host.Outcome State Fault Refusal :=
  let (r, p) := f s.a s.p
  .next (endStep 2 ((s.setA r).setP p))

/-- An instruction with no operand whose whole effect is `f` (R121). -/
def impliedInstr (cycles : Nat) (f : State → State) (s : State) : Host.Outcome State Fault Refusal :=
  .next (endStep cycles (f s))

/-- The target of a branch: `(PC + sext_16(d)) mod 65536` (R127). -/
def branchTarget (d : Byte) (next : Word) : Word := next + sext16 d

/-- The common branch rule (spec/47_branch_jump.md R210): 2 cycles, 3 taken, 4 taken to another page. -/
def branchInstr (cond : Byte → Bool) (d : Byte) (s : State) : Host.Outcome State Fault Refusal :=
  let target := branchTarget d s.pc
  if cond s.p then .next (endStep (cyclesOf 3 true (pageDiffers target s.pc)) (s.setPC target))
  else .next (endStep 2 s)

end Sys2Proof.Machine
end

