-- ==== Sys2Proof/Machine/Arithmetic.lean ====
section
/-! DEFINITION. Arithmetic instructions (spec/44_arithmetic.md R180 to R182). -/

namespace Sys2Proof.Machine

/-- `AddCore(m)` (R182): the binary sum in A, and C, V, Z, N. The D flag is not read. -/
def addCore (m : Byte) (s : State) : State := (s.setA (addResult s.a m (flagC s.p))).setP (addFlags s.a m s.p)

/-- ADC `$69` Immediate, 2 cycles (R180). -/
def execAdcImm (v : Byte) (s : State) : Host.Outcome State Fault Refusal :=
  readInstr (.immediate v) 2 false addCore s

/-- ADC `$65` ZeroPage, 3 cycles (R180). -/
def execAdcZp (z : Byte) (s : State) : Host.Outcome State Fault Refusal :=
  readInstr (.zeroPage z) 3 false addCore s

/-- ADC `$75` ZeroPageX, 4 cycles (R180). -/
def execAdcZpx (z : Byte) (s : State) : Host.Outcome State Fault Refusal :=
  readInstr (.zeroPageX z) 4 false addCore s

/-- ADC `$6D` Absolute, 4 cycles (R180). -/
def execAdcAbs (a : Word) (s : State) : Host.Outcome State Fault Refusal :=
  readInstr (.absolute a) 4 false addCore s

/-- ADC `$7D` AbsoluteX, 4+p cycles (R180). -/
def execAdcAbx (a : Word) (s : State) : Host.Outcome State Fault Refusal :=
  readInstr (.absoluteX a) 4 true addCore s

/-- ADC `$79` AbsoluteY, 4+p cycles (R180). -/
def execAdcAby (a : Word) (s : State) : Host.Outcome State Fault Refusal :=
  readInstr (.absoluteY a) 4 true addCore s

/-- ADC `$61` IndirectX, 6 cycles (R180). -/
def execAdcIzx (z : Byte) (s : State) : Host.Outcome State Fault Refusal :=
  readInstr (.indirectX z) 6 false addCore s

/-- ADC `$71` IndirectY, 5+p cycles (R180). -/
def execAdcIzy (z : Byte) (s : State) : Host.Outcome State Fault Refusal :=
  readInstr (.indirectY z) 5 true addCore s

/-- `AddCore(M ^ $FF)` (R181). -/
def sbcEffect (m : Byte) (s : State) : State := addCore (m ^^^ 0xFF) s

/-- SBC `$E9` Immediate, 2 cycles (R181). -/
def execSbcImm (v : Byte) (s : State) : Host.Outcome State Fault Refusal :=
  readInstr (.immediate v) 2 false sbcEffect s

/-- SBC `$E5` ZeroPage, 3 cycles (R181). -/
def execSbcZp (z : Byte) (s : State) : Host.Outcome State Fault Refusal :=
  readInstr (.zeroPage z) 3 false sbcEffect s

/-- SBC `$F5` ZeroPageX, 4 cycles (R181). -/
def execSbcZpx (z : Byte) (s : State) : Host.Outcome State Fault Refusal :=
  readInstr (.zeroPageX z) 4 false sbcEffect s

/-- SBC `$ED` Absolute, 4 cycles (R181). -/
def execSbcAbs (a : Word) (s : State) : Host.Outcome State Fault Refusal :=
  readInstr (.absolute a) 4 false sbcEffect s

/-- SBC `$FD` AbsoluteX, 4+p cycles (R181). -/
def execSbcAbx (a : Word) (s : State) : Host.Outcome State Fault Refusal :=
  readInstr (.absoluteX a) 4 true sbcEffect s

/-- SBC `$F9` AbsoluteY, 4+p cycles (R181). -/
def execSbcAby (a : Word) (s : State) : Host.Outcome State Fault Refusal :=
  readInstr (.absoluteY a) 4 true sbcEffect s

/-- SBC `$E1` IndirectX, 6 cycles (R181). -/
def execSbcIzx (z : Byte) (s : State) : Host.Outcome State Fault Refusal :=
  readInstr (.indirectX z) 6 false sbcEffect s

/-- SBC `$F1` IndirectY, 5+p cycles (R181). -/
def execSbcIzy (z : Byte) (s : State) : Host.Outcome State Fault Refusal :=
  readInstr (.indirectY z) 5 true sbcEffect s

end Sys2Proof.Machine
end

