-- ==== Sys2Proof/Machine/BranchJump.lean ====
section
/-! DEFINITION. Branches, jumps and subroutine calls (spec/47_branch_jump.md R210 to R222). -/

namespace Sys2Proof.Machine

/-- BPL `$10` Relative, 2 cycles (R211). -/
def execBpl (d : Byte) (s : State) : Host.Outcome State Fault Refusal :=
  branchInstr (fun p => !flagN p) d s

/-- BMI `$30` Relative, 2 cycles (R212). -/
def execBmi (d : Byte) (s : State) : Host.Outcome State Fault Refusal :=
  branchInstr flagN d s

/-- BVC `$50` Relative, 2 cycles (R213). -/
def execBvc (d : Byte) (s : State) : Host.Outcome State Fault Refusal :=
  branchInstr (fun p => !flagV p) d s

/-- BVS `$70` Relative, 2 cycles (R214). -/
def execBvs (d : Byte) (s : State) : Host.Outcome State Fault Refusal :=
  branchInstr flagV d s

/-- BCC `$90` Relative, 2 cycles (R215). -/
def execBcc (d : Byte) (s : State) : Host.Outcome State Fault Refusal :=
  branchInstr (fun p => !flagC p) d s

/-- BCS `$B0` Relative, 2 cycles (R216). -/
def execBcs (d : Byte) (s : State) : Host.Outcome State Fault Refusal :=
  branchInstr flagC d s

/-- BNE `$D0` Relative, 2 cycles (R217). -/
def execBne (d : Byte) (s : State) : Host.Outcome State Fault Refusal :=
  branchInstr (fun p => !flagZ p) d s

/-- BEQ `$F0` Relative, 2 cycles (R218). -/
def execBeq (d : Byte) (s : State) : Host.Outcome State Fault Refusal :=
  branchInstr flagZ d s

/-- JMP `$4C` Absolute, 3 cycles (R219). -/
def execJmpAbs (a : Word) (s : State) : Host.Outcome State Fault Refusal :=
  impliedInstr 3 (State.setPC a) s

/-- JMP `$6C` Indirect, 5 cycles (R220). -/
def execJmpInd (a : Word) (s : State) : Host.Outcome State Fault Refusal :=
  let (e, s) := effective (.indirect a) s
  .next (endStep 5 (s.setPC e.addr))

/-- The address of the third byte pushed high then low, then `PC <- (h:l)` (R221); PC is already the address of the next
instruction. -/
def jsrEffect (a : Word) (s : State) : State := (pushWord (s.pc - 1) s).setPC a

/-- JSR `$20` Absolute, 6 cycles (R221). -/
def execJsr (a : Word) (s : State) : Host.Outcome State Fault Refusal :=
  impliedInstr 6 (jsrEffect a) s

/-- `l <- Pull(); h <- Pull(); PC <- ((h:l) + 1) mod 65536` (R222). -/
def rtsEffect (s : State) : State :=
  let (w, s) := pullWord s
  s.setPC (w + 1)

/-- RTS `$60` Implied, 6 cycles (R222). -/
def execRts (s : State) : Host.Outcome State Fault Refusal :=
  impliedInstr 6 rtsEffect s

end Sys2Proof.Machine
end

