-- ==== Sys2Proof/Machine/CompareIncDec.lean ====
section
/-! DEFINITION. Compare, increment and decrement instructions (spec/46_compare_incdec.md R200 to R208). -/

namespace Sys2Proof.Machine

/-- C, Z and N from A and M (R200). -/
def cmpEffect (m : Byte) (s : State) : State := s.setP (compareFlags s.a m s.p)

/-- CMP `$C9` Immediate, 2 cycles (R200). -/
def execCmpImm (v : Byte) (s : State) : Host.Outcome State Fault Refusal :=
  readInstr (.immediate v) 2 false cmpEffect s

/-- CMP `$C5` ZeroPage, 3 cycles (R200). -/
def execCmpZp (z : Byte) (s : State) : Host.Outcome State Fault Refusal :=
  readInstr (.zeroPage z) 3 false cmpEffect s

/-- CMP `$D5` ZeroPageX, 4 cycles (R200). -/
def execCmpZpx (z : Byte) (s : State) : Host.Outcome State Fault Refusal :=
  readInstr (.zeroPageX z) 4 false cmpEffect s

/-- CMP `$CD` Absolute, 4 cycles (R200). -/
def execCmpAbs (a : Word) (s : State) : Host.Outcome State Fault Refusal :=
  readInstr (.absolute a) 4 false cmpEffect s

/-- CMP `$DD` AbsoluteX, 4+p cycles (R200). -/
def execCmpAbx (a : Word) (s : State) : Host.Outcome State Fault Refusal :=
  readInstr (.absoluteX a) 4 true cmpEffect s

/-- CMP `$D9` AbsoluteY, 4+p cycles (R200). -/
def execCmpAby (a : Word) (s : State) : Host.Outcome State Fault Refusal :=
  readInstr (.absoluteY a) 4 true cmpEffect s

/-- CMP `$C1` IndirectX, 6 cycles (R200). -/
def execCmpIzx (z : Byte) (s : State) : Host.Outcome State Fault Refusal :=
  readInstr (.indirectX z) 6 false cmpEffect s

/-- CMP `$D1` IndirectY, 5+p cycles (R200). -/
def execCmpIzy (z : Byte) (s : State) : Host.Outcome State Fault Refusal :=
  readInstr (.indirectY z) 5 true cmpEffect s

/-- C, Z and N from X and M (R201). -/
def cpxEffect (m : Byte) (s : State) : State := s.setP (compareFlags s.x m s.p)

/-- CPX `$E0` Immediate, 2 cycles (R201). -/
def execCpxImm (v : Byte) (s : State) : Host.Outcome State Fault Refusal :=
  readInstr (.immediate v) 2 false cpxEffect s

/-- CPX `$E4` ZeroPage, 3 cycles (R201). -/
def execCpxZp (z : Byte) (s : State) : Host.Outcome State Fault Refusal :=
  readInstr (.zeroPage z) 3 false cpxEffect s

/-- CPX `$EC` Absolute, 4 cycles (R201). -/
def execCpxAbs (a : Word) (s : State) : Host.Outcome State Fault Refusal :=
  readInstr (.absolute a) 4 false cpxEffect s

/-- C, Z and N from Y and M (R202). -/
def cpyEffect (m : Byte) (s : State) : State := s.setP (compareFlags s.y m s.p)

/-- CPY `$C0` Immediate, 2 cycles (R202). -/
def execCpyImm (v : Byte) (s : State) : Host.Outcome State Fault Refusal :=
  readInstr (.immediate v) 2 false cpyEffect s

/-- CPY `$C4` ZeroPage, 3 cycles (R202). -/
def execCpyZp (z : Byte) (s : State) : Host.Outcome State Fault Refusal :=
  readInstr (.zeroPage z) 3 false cpyEffect s

/-- CPY `$CC` Absolute, 4 cycles (R202). -/
def execCpyAbs (a : Word) (s : State) : Host.Outcome State Fault Refusal :=
  readInstr (.absolute a) 4 false cpyEffect s

/-- INC `$E6` ZeroPage, 5 cycles (R203). -/
def execIncZp (z : Byte) (s : State) : Host.Outcome State Fault Refusal :=
  rmwInstr (.zeroPage z) 5 incOp s

/-- INC `$F6` ZeroPageX, 6 cycles (R203). -/
def execIncZpx (z : Byte) (s : State) : Host.Outcome State Fault Refusal :=
  rmwInstr (.zeroPageX z) 6 incOp s

/-- INC `$EE` Absolute, 6 cycles (R203). -/
def execIncAbs (a : Word) (s : State) : Host.Outcome State Fault Refusal :=
  rmwInstr (.absolute a) 6 incOp s

/-- INC `$FE` AbsoluteX, 7 cycles (R203). -/
def execIncAbx (a : Word) (s : State) : Host.Outcome State Fault Refusal :=
  rmwInstr (.absoluteX a) 7 incOp s

/-- DEC `$C6` ZeroPage, 5 cycles (R204). -/
def execDecZp (z : Byte) (s : State) : Host.Outcome State Fault Refusal :=
  rmwInstr (.zeroPage z) 5 decOp s

/-- DEC `$D6` ZeroPageX, 6 cycles (R204). -/
def execDecZpx (z : Byte) (s : State) : Host.Outcome State Fault Refusal :=
  rmwInstr (.zeroPageX z) 6 decOp s

/-- DEC `$CE` Absolute, 6 cycles (R204). -/
def execDecAbs (a : Word) (s : State) : Host.Outcome State Fault Refusal :=
  rmwInstr (.absolute a) 6 decOp s

/-- DEC `$DE` AbsoluteX, 7 cycles (R204). -/
def execDecAbx (a : Word) (s : State) : Host.Outcome State Fault Refusal :=
  rmwInstr (.absoluteX a) 7 decOp s

/-- `X <- (X + 1) mod 256; SetZN(X)` (R205). -/
def inxEffect (s : State) : State := (s.setX (s.x + 1)).setP (setZN (s.x + 1) s.p)

/-- INX `$E8` Implied, 2 cycles (R205). -/
def execInx (s : State) : Host.Outcome State Fault Refusal :=
  impliedInstr 2 inxEffect s

/-- `Y <- (Y + 1) mod 256; SetZN(Y)` (R206). -/
def inyEffect (s : State) : State := (s.setY (s.y + 1)).setP (setZN (s.y + 1) s.p)

/-- INY `$C8` Implied, 2 cycles (R206). -/
def execIny (s : State) : Host.Outcome State Fault Refusal :=
  impliedInstr 2 inyEffect s

/-- `X <- (X - 1) mod 256; SetZN(X)` (R207). -/
def dexEffect (s : State) : State := (s.setX (s.x - 1)).setP (setZN (s.x - 1) s.p)

/-- DEX `$CA` Implied, 2 cycles (R207). -/
def execDex (s : State) : Host.Outcome State Fault Refusal :=
  impliedInstr 2 dexEffect s

/-- `Y <- (Y - 1) mod 256; SetZN(Y)` (R208). -/
def deyEffect (s : State) : State := (s.setY (s.y - 1)).setP (setZN (s.y - 1) s.p)

/-- DEY `$88` Implied, 2 cycles (R208). -/
def execDey (s : State) : Host.Outcome State Fault Refusal :=
  impliedInstr 2 deyEffect s

end Sys2Proof.Machine
end

