-- ==== Sys2Proof/Machine/LoadStore.lean ====
section
/-! DEFINITION. Load and store instructions (spec/41_load_store.md R140 to R145). -/

namespace Sys2Proof.Machine

/-- `A <- M; SetZN(A)` (R140). -/
def ldaEffect (m : Byte) (s : State) : State := (s.setA m).setP (setZN m s.p)

/-- LDA `$A9` Immediate, 2 cycles (R140). -/
def execLdaImm (v : Byte) (s : State) : Host.Outcome State Fault Refusal :=
  readInstr (.immediate v) 2 false ldaEffect s

/-- LDA `$A5` ZeroPage, 3 cycles (R140). -/
def execLdaZp (z : Byte) (s : State) : Host.Outcome State Fault Refusal :=
  readInstr (.zeroPage z) 3 false ldaEffect s

/-- LDA `$B5` ZeroPageX, 4 cycles (R140). -/
def execLdaZpx (z : Byte) (s : State) : Host.Outcome State Fault Refusal :=
  readInstr (.zeroPageX z) 4 false ldaEffect s

/-- LDA `$AD` Absolute, 4 cycles (R140). -/
def execLdaAbs (a : Word) (s : State) : Host.Outcome State Fault Refusal :=
  readInstr (.absolute a) 4 false ldaEffect s

/-- LDA `$BD` AbsoluteX, 4+p cycles (R140). -/
def execLdaAbx (a : Word) (s : State) : Host.Outcome State Fault Refusal :=
  readInstr (.absoluteX a) 4 true ldaEffect s

/-- LDA `$B9` AbsoluteY, 4+p cycles (R140). -/
def execLdaAby (a : Word) (s : State) : Host.Outcome State Fault Refusal :=
  readInstr (.absoluteY a) 4 true ldaEffect s

/-- LDA `$A1` IndirectX, 6 cycles (R140). -/
def execLdaIzx (z : Byte) (s : State) : Host.Outcome State Fault Refusal :=
  readInstr (.indirectX z) 6 false ldaEffect s

/-- LDA `$B1` IndirectY, 5+p cycles (R140). -/
def execLdaIzy (z : Byte) (s : State) : Host.Outcome State Fault Refusal :=
  readInstr (.indirectY z) 5 true ldaEffect s

/-- `X <- M; SetZN(X)` (R141). -/
def ldxEffect (m : Byte) (s : State) : State := (s.setX m).setP (setZN m s.p)

/-- LDX `$A2` Immediate, 2 cycles (R141). -/
def execLdxImm (v : Byte) (s : State) : Host.Outcome State Fault Refusal :=
  readInstr (.immediate v) 2 false ldxEffect s

/-- LDX `$A6` ZeroPage, 3 cycles (R141). -/
def execLdxZp (z : Byte) (s : State) : Host.Outcome State Fault Refusal :=
  readInstr (.zeroPage z) 3 false ldxEffect s

/-- LDX `$B6` ZeroPageY, 4 cycles (R141). -/
def execLdxZpy (z : Byte) (s : State) : Host.Outcome State Fault Refusal :=
  readInstr (.zeroPageY z) 4 false ldxEffect s

/-- LDX `$AE` Absolute, 4 cycles (R141). -/
def execLdxAbs (a : Word) (s : State) : Host.Outcome State Fault Refusal :=
  readInstr (.absolute a) 4 false ldxEffect s

/-- LDX `$BE` AbsoluteY, 4+p cycles (R141). -/
def execLdxAby (a : Word) (s : State) : Host.Outcome State Fault Refusal :=
  readInstr (.absoluteY a) 4 true ldxEffect s

/-- `Y <- M; SetZN(Y)` (R142). -/
def ldyEffect (m : Byte) (s : State) : State := (s.setY m).setP (setZN m s.p)

/-- LDY `$A0` Immediate, 2 cycles (R142). -/
def execLdyImm (v : Byte) (s : State) : Host.Outcome State Fault Refusal :=
  readInstr (.immediate v) 2 false ldyEffect s

/-- LDY `$A4` ZeroPage, 3 cycles (R142). -/
def execLdyZp (z : Byte) (s : State) : Host.Outcome State Fault Refusal :=
  readInstr (.zeroPage z) 3 false ldyEffect s

/-- LDY `$B4` ZeroPageX, 4 cycles (R142). -/
def execLdyZpx (z : Byte) (s : State) : Host.Outcome State Fault Refusal :=
  readInstr (.zeroPageX z) 4 false ldyEffect s

/-- LDY `$AC` Absolute, 4 cycles (R142). -/
def execLdyAbs (a : Word) (s : State) : Host.Outcome State Fault Refusal :=
  readInstr (.absolute a) 4 false ldyEffect s

/-- LDY `$BC` AbsoluteX, 4+p cycles (R142). -/
def execLdyAbx (a : Word) (s : State) : Host.Outcome State Fault Refusal :=
  readInstr (.absoluteX a) 4 true ldyEffect s

/-- STA `$85` ZeroPage, 3 cycles (R143). -/
def execStaZp (z : Byte) (s : State) : Host.Outcome State Fault Refusal :=
  storeInstr (.zeroPage z) 3 State.a s

/-- STA `$95` ZeroPageX, 4 cycles (R143). -/
def execStaZpx (z : Byte) (s : State) : Host.Outcome State Fault Refusal :=
  storeInstr (.zeroPageX z) 4 State.a s

/-- STA `$8D` Absolute, 4 cycles (R143). -/
def execStaAbs (a : Word) (s : State) : Host.Outcome State Fault Refusal :=
  storeInstr (.absolute a) 4 State.a s

/-- STA `$9D` AbsoluteX, 5 cycles (R143). -/
def execStaAbx (a : Word) (s : State) : Host.Outcome State Fault Refusal :=
  storeInstr (.absoluteX a) 5 State.a s

/-- STA `$99` AbsoluteY, 5 cycles (R143). -/
def execStaAby (a : Word) (s : State) : Host.Outcome State Fault Refusal :=
  storeInstr (.absoluteY a) 5 State.a s

/-- STA `$81` IndirectX, 6 cycles (R143). -/
def execStaIzx (z : Byte) (s : State) : Host.Outcome State Fault Refusal :=
  storeInstr (.indirectX z) 6 State.a s

/-- STA `$91` IndirectY, 6 cycles (R143). -/
def execStaIzy (z : Byte) (s : State) : Host.Outcome State Fault Refusal :=
  storeInstr (.indirectY z) 6 State.a s

/-- STX `$86` ZeroPage, 3 cycles (R144). -/
def execStxZp (z : Byte) (s : State) : Host.Outcome State Fault Refusal :=
  storeInstr (.zeroPage z) 3 State.x s

/-- STX `$96` ZeroPageY, 4 cycles (R144). -/
def execStxZpy (z : Byte) (s : State) : Host.Outcome State Fault Refusal :=
  storeInstr (.zeroPageY z) 4 State.x s

/-- STX `$8E` Absolute, 4 cycles (R144). -/
def execStxAbs (a : Word) (s : State) : Host.Outcome State Fault Refusal :=
  storeInstr (.absolute a) 4 State.x s

/-- STY `$84` ZeroPage, 3 cycles (R145). -/
def execStyZp (z : Byte) (s : State) : Host.Outcome State Fault Refusal :=
  storeInstr (.zeroPage z) 3 State.y s

/-- STY `$94` ZeroPageX, 4 cycles (R145). -/
def execStyZpx (z : Byte) (s : State) : Host.Outcome State Fault Refusal :=
  storeInstr (.zeroPageX z) 4 State.y s

/-- STY `$8C` Absolute, 4 cycles (R145). -/
def execStyAbs (a : Word) (s : State) : Host.Outcome State Fault Refusal :=
  storeInstr (.absolute a) 4 State.y s

end Sys2Proof.Machine
end

