-- ==== Sys2Proof/Machine/Logical.lean ====
section
/-! DEFINITION. Logical instructions (spec/43_logical.md R170 to R173). -/

namespace Sys2Proof.Machine

/-- `A <- A & M; SetZN(A)` (R170). -/
def andEffect (m : Byte) (s : State) : State := (s.setA (s.a &&& m)).setP (setZN (s.a &&& m) s.p)

/-- AND `$29` Immediate, 2 cycles (R170). -/
def execAndImm (v : Byte) (s : State) : Host.Outcome State Fault Refusal :=
  readInstr (.immediate v) 2 false andEffect s

/-- AND `$25` ZeroPage, 3 cycles (R170). -/
def execAndZp (z : Byte) (s : State) : Host.Outcome State Fault Refusal :=
  readInstr (.zeroPage z) 3 false andEffect s

/-- AND `$35` ZeroPageX, 4 cycles (R170). -/
def execAndZpx (z : Byte) (s : State) : Host.Outcome State Fault Refusal :=
  readInstr (.zeroPageX z) 4 false andEffect s

/-- AND `$2D` Absolute, 4 cycles (R170). -/
def execAndAbs (a : Word) (s : State) : Host.Outcome State Fault Refusal :=
  readInstr (.absolute a) 4 false andEffect s

/-- AND `$3D` AbsoluteX, 4+p cycles (R170). -/
def execAndAbx (a : Word) (s : State) : Host.Outcome State Fault Refusal :=
  readInstr (.absoluteX a) 4 true andEffect s

/-- AND `$39` AbsoluteY, 4+p cycles (R170). -/
def execAndAby (a : Word) (s : State) : Host.Outcome State Fault Refusal :=
  readInstr (.absoluteY a) 4 true andEffect s

/-- AND `$21` IndirectX, 6 cycles (R170). -/
def execAndIzx (z : Byte) (s : State) : Host.Outcome State Fault Refusal :=
  readInstr (.indirectX z) 6 false andEffect s

/-- AND `$31` IndirectY, 5+p cycles (R170). -/
def execAndIzy (z : Byte) (s : State) : Host.Outcome State Fault Refusal :=
  readInstr (.indirectY z) 5 true andEffect s

/-- `A <- A | M; SetZN(A)` (R171). -/
def oraEffect (m : Byte) (s : State) : State := (s.setA (s.a ||| m)).setP (setZN (s.a ||| m) s.p)

/-- ORA `$09` Immediate, 2 cycles (R171). -/
def execOraImm (v : Byte) (s : State) : Host.Outcome State Fault Refusal :=
  readInstr (.immediate v) 2 false oraEffect s

/-- ORA `$05` ZeroPage, 3 cycles (R171). -/
def execOraZp (z : Byte) (s : State) : Host.Outcome State Fault Refusal :=
  readInstr (.zeroPage z) 3 false oraEffect s

/-- ORA `$15` ZeroPageX, 4 cycles (R171). -/
def execOraZpx (z : Byte) (s : State) : Host.Outcome State Fault Refusal :=
  readInstr (.zeroPageX z) 4 false oraEffect s

/-- ORA `$0D` Absolute, 4 cycles (R171). -/
def execOraAbs (a : Word) (s : State) : Host.Outcome State Fault Refusal :=
  readInstr (.absolute a) 4 false oraEffect s

/-- ORA `$1D` AbsoluteX, 4+p cycles (R171). -/
def execOraAbx (a : Word) (s : State) : Host.Outcome State Fault Refusal :=
  readInstr (.absoluteX a) 4 true oraEffect s

/-- ORA `$19` AbsoluteY, 4+p cycles (R171). -/
def execOraAby (a : Word) (s : State) : Host.Outcome State Fault Refusal :=
  readInstr (.absoluteY a) 4 true oraEffect s

/-- ORA `$01` IndirectX, 6 cycles (R171). -/
def execOraIzx (z : Byte) (s : State) : Host.Outcome State Fault Refusal :=
  readInstr (.indirectX z) 6 false oraEffect s

/-- ORA `$11` IndirectY, 5+p cycles (R171). -/
def execOraIzy (z : Byte) (s : State) : Host.Outcome State Fault Refusal :=
  readInstr (.indirectY z) 5 true oraEffect s

/-- `A <- A ^ M; SetZN(A)` (R172). -/
def eorEffect (m : Byte) (s : State) : State := (s.setA (s.a ^^^ m)).setP (setZN (s.a ^^^ m) s.p)

/-- EOR `$49` Immediate, 2 cycles (R172). -/
def execEorImm (v : Byte) (s : State) : Host.Outcome State Fault Refusal :=
  readInstr (.immediate v) 2 false eorEffect s

/-- EOR `$45` ZeroPage, 3 cycles (R172). -/
def execEorZp (z : Byte) (s : State) : Host.Outcome State Fault Refusal :=
  readInstr (.zeroPage z) 3 false eorEffect s

/-- EOR `$55` ZeroPageX, 4 cycles (R172). -/
def execEorZpx (z : Byte) (s : State) : Host.Outcome State Fault Refusal :=
  readInstr (.zeroPageX z) 4 false eorEffect s

/-- EOR `$4D` Absolute, 4 cycles (R172). -/
def execEorAbs (a : Word) (s : State) : Host.Outcome State Fault Refusal :=
  readInstr (.absolute a) 4 false eorEffect s

/-- EOR `$5D` AbsoluteX, 4+p cycles (R172). -/
def execEorAbx (a : Word) (s : State) : Host.Outcome State Fault Refusal :=
  readInstr (.absoluteX a) 4 true eorEffect s

/-- EOR `$59` AbsoluteY, 4+p cycles (R172). -/
def execEorAby (a : Word) (s : State) : Host.Outcome State Fault Refusal :=
  readInstr (.absoluteY a) 4 true eorEffect s

/-- EOR `$41` IndirectX, 6 cycles (R172). -/
def execEorIzx (z : Byte) (s : State) : Host.Outcome State Fault Refusal :=
  readInstr (.indirectX z) 6 false eorEffect s

/-- EOR `$51` IndirectY, 5+p cycles (R172). -/
def execEorIzy (z : Byte) (s : State) : Host.Outcome State Fault Refusal :=
  readInstr (.indirectY z) 5 true eorEffect s

/-- `P.N <- M[7]; P.V <- M[6]; P.Z <- ((A & M) = 0)` (R173). -/
def bitEffect (m : Byte) (s : State) : State := s.setP (bitFlags s.a m s.p)

/-- BIT `$24` ZeroPage, 3 cycles (R173). -/
def execBitZp (z : Byte) (s : State) : Host.Outcome State Fault Refusal :=
  readInstr (.zeroPage z) 3 false bitEffect s

/-- BIT `$2C` Absolute, 4 cycles (R173). -/
def execBitAbs (a : Word) (s : State) : Host.Outcome State Fault Refusal :=
  readInstr (.absolute a) 4 false bitEffect s

end Sys2Proof.Machine
end

