-- ==== Sys2Proof/Machine/Shift.lean ====
section
/-! DEFINITION. Shift and rotate instructions (spec/45_shifts.md R190 to R193). -/

namespace Sys2Proof.Machine

/-- ASL `$0A` Accumulator, 2 cycles (R190). -/
def execAslAcc (s : State) : Host.Outcome State Fault Refusal :=
  accInstr aslOp s

/-- ASL `$06` ZeroPage, 5 cycles (R190). -/
def execAslZp (z : Byte) (s : State) : Host.Outcome State Fault Refusal :=
  rmwInstr (.zeroPage z) 5 aslOp s

/-- ASL `$16` ZeroPageX, 6 cycles (R190). -/
def execAslZpx (z : Byte) (s : State) : Host.Outcome State Fault Refusal :=
  rmwInstr (.zeroPageX z) 6 aslOp s

/-- ASL `$0E` Absolute, 6 cycles (R190). -/
def execAslAbs (a : Word) (s : State) : Host.Outcome State Fault Refusal :=
  rmwInstr (.absolute a) 6 aslOp s

/-- ASL `$1E` AbsoluteX, 7 cycles (R190). -/
def execAslAbx (a : Word) (s : State) : Host.Outcome State Fault Refusal :=
  rmwInstr (.absoluteX a) 7 aslOp s

/-- LSR `$4A` Accumulator, 2 cycles (R191). -/
def execLsrAcc (s : State) : Host.Outcome State Fault Refusal :=
  accInstr lsrOp s

/-- LSR `$46` ZeroPage, 5 cycles (R191). -/
def execLsrZp (z : Byte) (s : State) : Host.Outcome State Fault Refusal :=
  rmwInstr (.zeroPage z) 5 lsrOp s

/-- LSR `$56` ZeroPageX, 6 cycles (R191). -/
def execLsrZpx (z : Byte) (s : State) : Host.Outcome State Fault Refusal :=
  rmwInstr (.zeroPageX z) 6 lsrOp s

/-- LSR `$4E` Absolute, 6 cycles (R191). -/
def execLsrAbs (a : Word) (s : State) : Host.Outcome State Fault Refusal :=
  rmwInstr (.absolute a) 6 lsrOp s

/-- LSR `$5E` AbsoluteX, 7 cycles (R191). -/
def execLsrAbx (a : Word) (s : State) : Host.Outcome State Fault Refusal :=
  rmwInstr (.absoluteX a) 7 lsrOp s

/-- ROL `$2A` Accumulator, 2 cycles (R192). -/
def execRolAcc (s : State) : Host.Outcome State Fault Refusal :=
  accInstr rolOp s

/-- ROL `$26` ZeroPage, 5 cycles (R192). -/
def execRolZp (z : Byte) (s : State) : Host.Outcome State Fault Refusal :=
  rmwInstr (.zeroPage z) 5 rolOp s

/-- ROL `$36` ZeroPageX, 6 cycles (R192). -/
def execRolZpx (z : Byte) (s : State) : Host.Outcome State Fault Refusal :=
  rmwInstr (.zeroPageX z) 6 rolOp s

/-- ROL `$2E` Absolute, 6 cycles (R192). -/
def execRolAbs (a : Word) (s : State) : Host.Outcome State Fault Refusal :=
  rmwInstr (.absolute a) 6 rolOp s

/-- ROL `$3E` AbsoluteX, 7 cycles (R192). -/
def execRolAbx (a : Word) (s : State) : Host.Outcome State Fault Refusal :=
  rmwInstr (.absoluteX a) 7 rolOp s

/-- ROR `$6A` Accumulator, 2 cycles (R193). -/
def execRorAcc (s : State) : Host.Outcome State Fault Refusal :=
  accInstr rorOp s

/-- ROR `$66` ZeroPage, 5 cycles (R193). -/
def execRorZp (z : Byte) (s : State) : Host.Outcome State Fault Refusal :=
  rmwInstr (.zeroPage z) 5 rorOp s

/-- ROR `$76` ZeroPageX, 6 cycles (R193). -/
def execRorZpx (z : Byte) (s : State) : Host.Outcome State Fault Refusal :=
  rmwInstr (.zeroPageX z) 6 rorOp s

/-- ROR `$6E` Absolute, 6 cycles (R193). -/
def execRorAbs (a : Word) (s : State) : Host.Outcome State Fault Refusal :=
  rmwInstr (.absolute a) 6 rorOp s

/-- ROR `$7E` AbsoluteX, 7 cycles (R193). -/
def execRorAbx (a : Word) (s : State) : Host.Outcome State Fault Refusal :=
  rmwInstr (.absoluteX a) 7 rorOp s

end Sys2Proof.Machine
end

