-- ==== Sys2Proof/Machine/System.lean ====
section
/-! DEFINITION. BRK, RTI, flag instructions and NOP (spec/48_system_flag_nop.md R230 to R239). -/

namespace Sys2Proof.Machine

/-- PC moved past the padding byte, which is not read, then the entry with B = 1, hijackable (R230). -/
def brkEffect (s : State) : State := interruptEntry irqVector true true (s.setPC (s.pc + 1))

/-- BRK `$00` Implied, 7 cycles (R230). -/
def execBrk (s : State) : Host.Outcome State Fault Refusal :=
  impliedInstr 7 brkEffect s

/-- RTI `$40` Implied, 6 cycles (R231). -/
def execRti (s : State) : Host.Outcome State Fault Refusal :=
  impliedInstr 6 returnFromInterrupt s

/-- CLC `$18` Implied, 2 cycles (R232). -/
def execClc (s : State) : Host.Outcome State Fault Refusal :=
  impliedInstr 2 (fun s => s.setP (setC false s.p)) s

/-- SEC `$38` Implied, 2 cycles (R233). -/
def execSec (s : State) : Host.Outcome State Fault Refusal :=
  impliedInstr 2 (fun s => s.setP (setC true s.p)) s

/-- CLI `$58` Implied, 2 cycles (R234). -/
def execCli (s : State) : Host.Outcome State Fault Refusal :=
  impliedInstr 2 (fun s => s.setP (setI false s.p)) s

/-- SEI `$78` Implied, 2 cycles (R235). -/
def execSei (s : State) : Host.Outcome State Fault Refusal :=
  impliedInstr 2 (fun s => s.setP (setI true s.p)) s

/-- CLV `$B8` Implied, 2 cycles (R236). -/
def execClv (s : State) : Host.Outcome State Fault Refusal :=
  impliedInstr 2 (fun s => s.setP (setV false s.p)) s

/-- CLD `$D8` Implied, 2 cycles (R237). -/
def execCld (s : State) : Host.Outcome State Fault Refusal :=
  impliedInstr 2 (fun s => s.setP (setD false s.p)) s

/-- SED `$F8` Implied, 2 cycles (R238). -/
def execSed (s : State) : Host.Outcome State Fault Refusal :=
  impliedInstr 2 (fun s => s.setP (setD true s.p)) s

/-- NOP `$EA` Implied, 2 cycles (R239). -/
def execNop (s : State) : Host.Outcome State Fault Refusal :=
  impliedInstr 2 id s

end Sys2Proof.Machine
end

