-- ==== Sys2Proof/Machine/Transfer.lean ====
section
/-! DEFINITION. Register transfers and stack instructions (spec/42_transfer_stack.md R150 to R159). -/

namespace Sys2Proof.Machine

/-- `X <- A; SetZN(X)` (R150). -/
def taxEffect (s : State) : State := (s.setX s.a).setP (setZN s.a s.p)

/-- TAX `$AA` Implied, 2 cycles (R150). -/
def execTax (s : State) : Host.Outcome State Fault Refusal :=
  impliedInstr 2 taxEffect s

/-- `A <- X; SetZN(A)` (R151). -/
def txaEffect (s : State) : State := (s.setA s.x).setP (setZN s.x s.p)

/-- TXA `$8A` Implied, 2 cycles (R151). -/
def execTxa (s : State) : Host.Outcome State Fault Refusal :=
  impliedInstr 2 txaEffect s

/-- `Y <- A; SetZN(Y)` (R152). -/
def tayEffect (s : State) : State := (s.setY s.a).setP (setZN s.a s.p)

/-- TAY `$A8` Implied, 2 cycles (R152). -/
def execTay (s : State) : Host.Outcome State Fault Refusal :=
  impliedInstr 2 tayEffect s

/-- `A <- Y; SetZN(A)` (R153). -/
def tyaEffect (s : State) : State := (s.setA s.y).setP (setZN s.y s.p)

/-- TYA `$98` Implied, 2 cycles (R153). -/
def execTya (s : State) : Host.Outcome State Fault Refusal :=
  impliedInstr 2 tyaEffect s

/-- `X <- SP; SetZN(X)` (R154). -/
def tsxEffect (s : State) : State := (s.setX s.sp).setP (setZN s.sp s.p)

/-- TSX `$BA` Implied, 2 cycles (R154). -/
def execTsx (s : State) : Host.Outcome State Fault Refusal :=
  impliedInstr 2 tsxEffect s

/-- `SP <- X`, no flag (R155). -/
def txsEffect (s : State) : State := s.setSP s.x

/-- TXS `$9A` Implied, 2 cycles (R155). -/
def execTxs (s : State) : Host.Outcome State Fault Refusal :=
  impliedInstr 2 txsEffect s

/-- `Push(A)` (R156). -/
def phaEffect (s : State) : State := push s.a s

/-- PHA `$48` Implied, 3 cycles (R156). -/
def execPha (s : State) : Host.Outcome State Fault Refusal :=
  impliedInstr 3 phaEffect s

/-- `A <- Pull(); SetZN(A)` (R157). -/
def plaEffect (s : State) : State :=
  let (v, s) := pull s
  (s.setA v).setP (setZN v s.p)

/-- PLA `$68` Implied, 4 cycles (R157). -/
def execPla (s : State) : Host.Outcome State Fault Refusal :=
  impliedInstr 4 plaEffect s

/-- `Push(P | $30)` (R158). -/
def phpEffect (s : State) : State := push (pushedStatus true s.p) s

/-- PHP `$08` Implied, 3 cycles (R158). -/
def execPhp (s : State) : Host.Outcome State Fault Refusal :=
  impliedInstr 3 phpEffect s

/-- `v <- Pull(); P <- (v & $CF) | $20` (R159). -/
def plpEffect (s : State) : State :=
  let (v, s) := pull s
  s.setP (pulledStatus v)

/-- PLP `$28` Implied, 4 cycles (R159). -/
def execPlp (s : State) : Host.Outcome State Fault Refusal :=
  impliedInstr 4 plpEffect s

end Sys2Proof.Machine
end

