-- ==== Sys2Proof/Machine/Fetch.lean ====
section
/-! DEFINITION. The instruction boundary (spec/60_exceptions.md R251) and the fetch of an instruction through the bus
(spec/40_addressing_modes.md R120), and where the host's view of the table places an instruction. -/

namespace Sys2Proof.Machine

/-! ## The boundary -/

/-- What a step turns out to be (R251): none, an interrupt entry, or one instruction, with the machine so far. -/
inductive Boundary where
  | halted
  | entry (s : State)
  | run   (s : State)
  deriving DecidableEq, Repr

/-- The machine after the boundary's inputs are looked at: `irq_line` as the host left it, then `PollNmi()`. -/
def sampled (s : State) : State := pollNmi (nextIrq (beginStep s))

/-- The boundary (R251, R257): NMI first, then IRQ where I is clear, else the instruction at PC. -/
def boundary (s : State) : Boundary :=
  if s.halted then .halted
  else
    let s := sampled s
    if s.nmiPending then .entry (serviceNmi s)
    else if s.irqLine && !flagI s.p then .entry (serviceIrq s)
    else .run s

/-! ## The fetch -/

/-- `Fetch()`: `b <- Read(PC); PC <- (PC + 1) mod 65536` (R120). -/
def fetch (s : State) : Byte × State :=
  let (b, s) := busRead s.pc s
  (b, s.setPC (s.pc + 1))

/-- `n` fetches. -/
def readBytes : Nat → State → List Byte × State
  | 0, s => ([], s)
  | n + 1, s =>
    let (b, s) := fetch s
    let (bs, s) := readBytes n s
    (b :: bs, s)

/-- The fetch's outcome: an instruction with the machine after it (PC is the address of the next instruction), or an
undocumented byte with the machine BadOpcode leaves (R262): the opcode read has happened, `halted` is set, nothing else
has changed. -/
inductive Fetched where
  | instr (i : Instr) (s : State)
  | bad   (op : Byte) (pc : Word) (s : State)
  deriving DecidableEq, Repr

/-- The fetch of one instruction (R120 (1), (2)). -/
def fetchInstr (s : State) : Fetched :=
  let (op, t) := busRead s.pc s
  match formatOf op with
  | none => .bad op s.pc (t.setHalted true)
  | some (.one i) => .instr i (t.setPC (s.pc + 1))
  | some (.two mk) =>
    let (b, t) := fetch (t.setPC (s.pc + 1))
    .instr (mk b) t
  | some (.three mk) =>
    let (l, t) := fetch (t.setPC (s.pc + 1))
    let (h, t) := fetch t
    .instr (mk (wordOf h l)) t

/-! ## Placing an instruction (launch-state construction, spec/70_reset_and_hazards.md R314 (6); log entry 11) -/

/-- Whether the cell an address reads can be given a byte: RAM, PRG-RAM or PRG-ROM. -/
def placeable (a : Word) (s : State) : Bool :=
  match readTarget a with
  | .ram _ => true
  | .cartridge => 0x8000 ≤ a.toNat || (0x6000 ≤ a.toNat && s.cart.prgRamPresent)
  | .ppu _ | .apuStatus | .controller1 | .controller2 | .openBus => false

/-- The cell the address reads given a byte: no bus transaction, a load from outside. -/
def placeByte (a : Word) (v : Byte) (s : State) : State :=
  match readTarget a with
  | .ram cell => s.setRam (s.ram.write cell v)
  | .cartridge =>
    if a.toNat < 0x8000 then s.setCart { s.cart with prgRam := s.cart.prgRam.write (a.toNat - 0x6000) v }
    else s.setCart { s.cart with prgRom := s.cart.prgRom.write (s.cart.prgIndex a) v }
  | .ppu _ | .apuStatus | .controller1 | .controller2 | .openBus => s

/-- Bytes placed at ascending addresses. -/
def placeBytes : Word → List Byte → State → State
  | _, [], s => s
  | a, b :: bs, s => placeBytes (a + 1) bs (placeByte a b s)

/-- The machine about to fetch at a boundary with nothing in the way: not halted, no NMI latched, both lines low. -/
def readyToFetch (s : State) : State :=
  (((s.setHalted false).setNmiPending false).setIrqLine false).setEnv
    { s.env with nmiLine := false, nmiPlan := [], irqPlan := [] }

/-- Three instruction bytes placed where the next step fetches: at PC, or at `$0000` with PC set there where PC names
cells that hold no byte (a device port, open bus). -/
def placeInstr (bs : List Byte) (s : State) : State :=
  let s := readyToFetch s
  if placeable s.pc s && placeable (s.pc + 1) s && placeable (s.pc + 2) s then placeBytes s.pc bs s
  else placeBytes 0 bs (s.setPC 0)

end Sys2Proof.Machine
end

