-- ==== Sys2Proof/Machine/Step.lean ====
section
/-! DEFINITION. One step of the machine (spec/60_exceptions.md R251): an interrupt entry of 7 cycles, or the fetch and
execution of one instruction, or a fault. -/

namespace Sys2Proof.Machine

/-- One step. -/
def step (s : State) : Host.Outcome State Fault Refusal :=
  match boundary s with
  | .halted => .fault .halted
  | .entry s => .next (endStep entryCycles s)
  | .run s =>
    match fetchInstr s with
    | .bad op pc _ => .fault (.badOpcode op pc)
    | .instr i s => exec i s

/-- `s` with the instruction whose bits are `w` stored where the next step fetches (log entry 11). -/
def State.withFetchWord (s : State) (nbits w : Nat) : State := placeInstr (tableBytes nbits w) s

end Sys2Proof.Machine
end

