-- ==== Sys2Proof/Machine/HostInterface.lean ====
section
/-! DEFINITION. What the host can do to the machine (spec/70_reset_and_hazards.md R314): offer an image, power up, reset
(`resetCpu`), step, set `irq_line` (`State.setIrqLine`), answer ports (`Env`), make PPU-side accesses (`ppuSideRead`,
`ppuSideWrite`), force PC (`State.setPC`, R316), and read the trace line (spec/60_exceptions.md R270). -/

namespace Sys2Proof.Machine

/-- Power-up from an image (spec/70_reset_and_hazards.md R300): the image is accepted or refused, then RAM takes
`RAM_INIT` and the CPU is reset. -/
def powerUpImage (buf : List Byte) (ramInit prgRamInit : Memory) (env : Env) : Except ImageRefusal State :=
  match loadImage buf prgRamInit with
  | .error e => .error e
  | .ok cart => .ok (State.powerUp cart ramInit env)

/-- The machine the host holds after calling `step`: the next state, and after a BadOpcode the halted machine
(spec/60_exceptions.md R262; log entry 7). -/
def afterStep (s : State) : State :=
  match boundary s with
  | .halted => s
  | .entry t => endStep entryCycles t
  | .run t =>
    match fetchInstr t with
    | .bad _ _ u => u
    | .instr i u =>
      match exec i u with
      | .next v => v
      | .fault _ | .refused _ => u

/-! ## The trace line (R270) -/

/-- One upper-case hexadecimal digit. -/
def hexDigit (n : Nat) : Char := ['0', '1', '2', '3', '4', '5', '6', '7', '8', '9', 'A', 'B', 'C', 'D', 'E', 'F'].getD n '0'

/-- A byte as two digits. -/
def hex2 (b : Byte) : List Char := [hexDigit (b.toNat / 16), hexDigit (b.toNat % 16)]

/-- A word as four digits. -/
def hex4 (w : Word) : List Char := hex2 (hiByte w) ++ hex2 (loByte w)

/-- A label and a byte, one space before: ` A:aa`. -/
def traceField (label : List Char) (b : Byte) : List Char := ' ' :: label ++ (':' :: hex2 b)

/-- `PPPP OP AA BB MNEMONIC A:aa X:xx Y:yy P:pp SP:ss CYC:ccc` of the state before the instruction. -/
def traceText (s : State) (bytes : List Byte) (name : List Char) : List Char :=
  hex4 s.pc ++ bytes.flatMap (fun b => ' ' :: hex2 b) ++ (' ' :: name) ++ traceField ['A'] s.a ++ traceField ['X'] s.x ++
    traceField ['Y'] s.y ++ traceField ['P'] s.p ++ traceField ['S', 'P'] s.sp ++
    [' ', 'C', 'Y', 'C', ':'] ++ Nat.toDigits 10 s.cycles.toNat

/-- The trace line of the step to come: none for an interrupt entry, a BadOpcode or a halted machine (R270). The
instruction's bytes are those the step will fetch, read on a copy of the machine (log entry 10). -/
def traceLine (s : State) : Option (List Char) :=
  match boundary s with
  | .halted | .entry _ => none
  | .run t =>
    match fetchInstr t with
    | .bad _ _ _ => none
    | .instr i _ => some (traceText s (readBytes i.row.mode.length t).1 i.row.mnemonic.name)

end Sys2Proof.Machine
end

