-- ==== Sys2Proof/Safety.lean ====
section
/-! DEFINITION. What every reachable state satisfies (spec/10_state.md R45) and which states are reachable. -/

namespace Sys2Proof.Machine

/-- The MMC1 part of R45: `count` in 0..4 and `shift < 2^count`. -/
def Mmc1.inv (r : Mmc1) : Bool := r.count ≤ 4 && r.shift.toNat < 2 ^ r.count

/-- What a cartridge is between accesses: a legal configuration; buffers in canonical form, each with cells only where
it exists (R32); under NROM the mirroring of the image (spec/20_memory.md R78), under MMC1 PRG-RAM present (R86). -/
def Cart.inv (c : Cart) : Bool :=
  c.config.wellFormed &&
  c.prgRom.wf (prgSize c.config) &&
  c.chrRom.wf (c.config.chrBanks8k * 0x2000) &&
  c.prgRam.wf (if c.config.hasPrgRam then prgRamSize else 0) &&
  c.chrRam.wf (if chrIsRam c.config then 0x2000 else 0) &&
  match c.board with
  | .nrom => c.mirroring == c.config.mirroringInit
  | .mmc1 r => c.config.hasPrgRam && r.inv

/-- The invariant of R45 at an instruction boundary: `P & $30 = $20`, `dma_page` empty, memories in canonical form, the
cartridge's invariant. (That SP is a byte is its type.) -/
def State.inv (s : State) : Bool :=
  s.p &&& 0x30 == 0x20 && s.dmaPage == none && s.ram.wf ramSize && s.cart.inv

/-- What the host and the machine can make (spec/70_reset_and_hazards.md R314): power-up from an accepted image with any
RAM contents and any environment, steps, resets, and the environment's acts between steps. -/
inductive Reachable : State → Prop where
  | powerUp {buf : List Byte} {ramInit prgRamInit : Memory} {env : Env} {s : State}
      (ram : ramInit.wf ramSize = true) (prgRam : prgRamInit.wf prgRamSize = true)
      (image : powerUpImage buf ramInit prgRamInit env = .ok s) : Reachable s
  | step {s : State} (h : Reachable s) : Reachable (afterStep s)
  | reset {s : State} (h : Reachable s) : Reachable (resetCpu s)
  | irq {s : State} (b : Bool) (h : Reachable s) : Reachable (s.setIrqLine b)
  | environment {s : State} (e : Env) (h : Reachable s) : Reachable (s.setEnv e)
  | ppuWrite {s : State} (addr : Word) (v : Byte) (h : Reachable s) : Reachable (ppuSideWrite addr v s)

/-- A safe run: `n` steps of which none faults. -/
def safeFor : Nat → State → Prop
  | 0, _ => True
  | n + 1, s => ∃ t, step s = .next t ∧ safeFor n t

/-! ## The vocabulary of the statements -/

/-- The operand an instruction's row and operand bytes name: mode and bytes from spec/opcode_table.json, assembled by
spec/30_encoding.md R103. None for Implied, Accumulator and Relative. -/
def Operand.of (i : Instr) : Option Operand :=
  match i.row.mode, i.operandBytes with
  | .immediate, [b] => some (.immediate b)
  | .zeroPage, [b] => some (.zeroPage b)
  | .zeroPageX, [b] => some (.zeroPageX b)
  | .zeroPageY, [b] => some (.zeroPageY b)
  | .absolute, [l, h] => some (.absolute (wordOf h l))
  | .absoluteX, [l, h] => some (.absoluteX (wordOf h l))
  | .absoluteY, [l, h] => some (.absoluteY (wordOf h l))
  | .indirect, [l, h] => some (.indirect (wordOf h l))
  | .indirectX, [b] => some (.indirectX b)
  | .indirectY, [b] => some (.indirectY b)
  | _, _ => none

/-- The count of a step by the opcode table: base cycles, and the page penalty where the row has it
(spec/40_addressing_modes.md R133, R134). -/
def tableCycles (i : Instr) (crossed : Bool) : Nat := cyclesOf i.row.cycles i.row.pagePenalty crossed

/-- `t` is a machine whose step ended with count `n` right after `u`: the counter, the inputs and the outputs. -/
def Ended (n : Nat) (u t : State) : Prop :=
  t.cycles = u.cycles + BitVec.ofNat 64 n ∧ t.env = u.env ∧ t.out = { u.out with returned := some n }

/-- Every byte of memory and the whole cartridge as before. -/
def MemoryKept (s t : State) : Prop := t.ram = s.ram ∧ t.cart = s.cart ∧ ∀ a, peek a t = peek a s

/-- The interrupt state and `halted` as before, and `dma_page` empty. -/
def InterruptsKept (s t : State) : Prop :=
  t.nmiPending = s.nmiPending ∧ t.nmiPrev = s.nmiPrev ∧ t.irqLine = s.irqLine ∧ t.halted = s.halted ∧ t.dmaPage = none

/-- Every bit of P outside `mask` as before. -/
def FlagsKept (mask p q : Byte) : Prop := q &&& ~~~mask = p &&& ~~~mask

/-- The stack slot SP names, `$0100 | SP` (spec/10_state.md R21), as a number: 256 more than SP. -/
def stackSlot (sp : Byte) : Word := BitVec.ofNat 16 (0x100 + sp.toNat)

/-- Whether two addresses name the same RAM cell (spec/20_memory.md R55). -/
def sameRamCell (a b : Word) : Bool := a.toNat < 0x2000 && b.toNat < 0x2000 && a.toNat % 0x800 == b.toNat % 0x800

/-- What an address peeks as after the RAM writes listed, newest first. -/
def peekAfter : List (Word × Byte) → Word → State → Option Byte
  | [], b, s => peek b s
  | (a, v) :: ws, b, s => if sameRamCell a b then some v else peekAfter ws b s

/-- Memory after the RAM writes listed, newest first, and no other. -/
def RamStores (ws : List (Word × Byte)) (s t : State) : Prop := t.cart = s.cart ∧ ∀ b, peek b t = peekAfter ws b s

/-- Memory after a store of `v` at an address (spec/20_memory.md R54): RAM through all its mirrors, PRG-RAM where there
is one, nothing at a device, at open bus or in ROM; a write to the MMC1's port acts as `Cart.cpuWrite` says and leaves
RAM and PRG-RAM alone. -/
def StoredAt (a : Word) (v : Byte) (s t : State) : Prop :=
  if a.toNat < 0x2000 then RamStores [(a, v)] s t
  else if a.toNat < 0x6000 then MemoryKept s t
  else if a.toNat < 0x8000 then
    if s.cart.prgRamPresent then
      t.ram = s.ram ∧ t.cart.board = s.cart.board ∧ t.cart.mirroring = s.cart.mirroring ∧
        ∀ b, peek b t = if b = a then some v else peek b s
    else MemoryKept s t
  else
    match s.cart.board with
    | .nrom => MemoryKept s t
    | .mmc1 _ => t.ram = s.ram ∧ t.cart = s.cart.cpuWrite a v ∧ ∀ b : Word, b.toNat < 0x8000 → peek b t = peek b s

/-- The level the host gives `irq_line` before the step. -/
def irqLevel (s : State) : Bool := (nextIrq s).irqLine

/-- Whether the coming `PollNmi()` leaves the latch set: already set, or a rising edge (spec/60_exceptions.md R253). -/
def nmiSeen (s : State) : Bool := s.nmiPending || (nmiLevel s && !s.nmiPrev)

/-- The vector a hijackable entry takes (R260), on the machine right before its re-poll. -/
def hijackVector (s : State) : Word := if nmiSeen s then 0xFFFA else 0xFFFE

/-- The word at a vector, through the cartridge. -/
def vectorTarget (v : Word) (c : Cart) : Word := wordOf (c.cpuRead (v + 1)) (c.cpuRead v)

/-- A transaction's kind (true for a write) and address. -/
def BusTxn.access : BusTxn → Bool × Word
  | .read a _ => (false, a)
  | .write a _ => (true, a)

/-- The pointer bytes a mode reads, in order (spec/70_reset_and_hazards.md R306). -/
def Operand.pointerReads : Operand → State → List Word
  | .indirect a, _ => [a, wordOf (hiByte a) (loByte a + 1)]
  | .indirectX z, s => [zext16 (z + s.x), zext16 (z + s.x + 1)]
  | .indirectY z, _ => [zext16 z, zext16 (z + 1)]
  | _, _ => []

/-- What a read instruction accesses after its fetch (R306). -/
def readAccesses (i : Instr) (s : State) : List (Bool × Word) :=
  match Operand.of i with
  | none | some (.immediate _) => []
  | some o => (o.pointerReads s).map (false, ·) ++ [(false, (effective o s).1.addr)]

/-- What a store accesses after its fetch (R306). -/
def storeAccesses (i : Instr) (s : State) : List (Bool × Word) :=
  match Operand.of i with
  | none => []
  | some o => (o.pointerReads s).map (false, ·) ++ [(true, (effective o s).1.addr)]

/-- What a shift, increment or decrement accesses after its fetch (R306): nothing in accumulator mode. -/
def rmwAccesses (i : Instr) (s : State) : List (Bool × Word) :=
  match Operand.of i with
  | none => []
  | some o => [(false, (effective o s).1.addr), (true, (effective o s).1.addr)]

/-- The transactions of each instruction after its fetch, in order: the table of R306. `s` is the machine after the
fetch. -/
def instrAccesses (i : Instr) (s : State) : List (Bool × Word) :=
  match i.row.mnemonic with
  | .lda | .ldx | .ldy | .and | .ora | .eor | .bit | .adc | .sbc | .cmp | .cpx | .cpy => readAccesses i s
  | .sta | .stx | .sty => storeAccesses i s
  | .asl | .lsr | .rol | .ror | .inc | .dec => rmwAccesses i s
  | .jmp => ((Operand.of i).elim [] (fun o => o.pointerReads s)).map (false, ·)
  | .jsr => [(true, stackSlot s.sp), (true, stackSlot (s.sp - 1))]
  | .rts => [(false, stackSlot (s.sp + 1)), (false, stackSlot (s.sp + 2))]
  | .pha | .php => [(true, stackSlot s.sp)]
  | .pla | .plp => [(false, stackSlot (s.sp + 1))]
  | .rti => [(false, stackSlot (s.sp + 1)), (false, stackSlot (s.sp + 2)), (false, stackSlot (s.sp + 3))]
  | .brk =>
    [(true, stackSlot s.sp), (true, stackSlot (s.sp - 1)), (true, stackSlot (s.sp - 2)), (false, hijackVector s),
      (false, hijackVector s + 1)]
  | .tax | .txa | .tay | .tya | .tsx | .txs | .inx | .iny | .dex | .dey | .bpl | .bmi | .bvc | .bvs | .bcc | .bcs
  | .bne | .beq | .clc | .sec | .cli | .sei | .clv | .cld | .sed | .nop => []

/-- The reads of an instruction's `n` bytes from `pc` up. -/
def fetchAccesses (pc : Word) (n : Nat) : List (Bool × Word) :=
  (List.range n).map (fun k => (false, pc + BitVec.ofNat 16 k))

/-- The reads of the OAMDMA of a page, ascending (spec/20_memory.md R63). -/
def dmaAccesses (page : Byte) : List (Bool × Word) :=
  (List.range 256).map (fun k => (false, BitVec.ofNat 16 (page.toNat * 256 + k)))

end Sys2Proof.Machine
end

