-- ==== Sys2Proof/Certificates/Slice0/Obligations.lean ====
section
/-! DEFINITION. The statements, each citing the rule of spec/ it formalises. Their vocabulary is in Sys2Proof/Safety.lean.
A statement about `exec` speaks of the machine after the fetch, so PC is the address of the next instruction; the
hypothesis `dmaPage = none` is the invariant of spec/10_state.md R45 that every instruction boundary has. -/

open Sys2Proof Sys2Proof.Machine

/-! ## Reset, power-up and the cartridge image -/

/-- R42: "`A=X=Y=0`, `SP=0xFD`, `P=0x24` (I set, bit5 set), `PC = read16($FFFC)`, `cycles=7`", at power-up with any
cartridge and RAM contents and after a reset of any machine: the vector is read through the bus from the cartridge in
place, low byte first, and nothing is pushed. -/
def Obligations.PowerUpRegisters : Prop :=
  ∀ (c : Cart) (ram : Memory) (e : Env) (running : State),
    (State.powerUp c ram e).cart = c ∧
    ∀ s ∈ [State.powerUp c ram e, resetCpu running],
      s.a = 0 ∧ s.x = 0 ∧ s.y = 0 ∧ s.sp = 0xFD ∧ s.p = 0x24 ∧
      flagN s.p = false ∧ flagV s.p = false ∧ flagD s.p = false ∧ flagI s.p = true ∧ flagZ s.p = false ∧
      flagC s.p = false ∧ s.p.getLsbD 5 = true ∧ s.p.getLsbD 4 = false ∧
      s.pc = wordOf (s.cart.cpuRead 0xFFFD) (s.cart.cpuRead 0xFFFC) ∧ s.cycles = 7 ∧
      List.Sublist [.read 0xFFFC (s.cart.cpuRead 0xFFFC), .read 0xFFFD (s.cart.cpuRead 0xFFFD)] s.out.bus.reverse ∧
      ∀ a v, BusTxn.write a v ∉ s.out.bus

/-- R300, R301, R43 (which rest on the spec's decisions D15, D25, D31, D37): a reset of any machine gives every CPU
register its value, reads the vector through the mapper as it stands, and leaves memory, the cartridge and `irq_line`
alone. Power-up clears the same bookkeeping and takes `RAM_INIT`, and from an image `PRG_RAM_INIT`, as given. -/
def Obligations.ResetSetsTheCpuAndKeepsTheRest : Prop :=
  (∀ s : State,
    let t := resetCpu s
    t.a = 0 ∧ t.x = 0 ∧ t.y = 0 ∧ t.sp = 0xFD ∧ t.p = 0x24 ∧ t.cycles = 7 ∧ t.pc = vectorTarget 0xFFFC s.cart ∧
    t.nmiPending = false ∧ t.nmiPrev = false ∧ t.halted = false ∧ t.dmaPage = none ∧
    t.irqLine = s.irqLine ∧ t.ram = s.ram ∧ t.cart = s.cart ∧ t.env = s.env ∧
    t.out.bus.reverse = [.read 0xFFFC (s.cart.cpuRead 0xFFFC), .read 0xFFFD (s.cart.cpuRead 0xFFFD)] ∧
    t.out.ports = s.out.ports) ∧
  (∀ (c : Cart) (ramInit : Memory) (e : Env),
    let s := State.powerUp c ramInit e
    s.nmiPending = false ∧ s.nmiPrev = false ∧ s.halted = false ∧ s.dmaPage = none ∧ s.ram = ramInit ∧ s.cart = c ∧
    s.env = e ∧
    s.out.bus.reverse = [.read 0xFFFC (c.cpuRead 0xFFFC), .read 0xFFFD (c.cpuRead 0xFFFD)]) ∧
  (∀ (buf : List Byte) (ramInit prgRamInit : Memory) (e : Env) (s : State),
    powerUpImage buf ramInit prgRamInit e = .ok s →
    loadImage buf prgRamInit = .ok s.cart ∧ s = State.powerUp s.cart ramInit e ∧
    (s.cart.config.hasPrgRam = true → s.cart.prgRam = prgRamInit))

/-- R71 (with the spec's decisions D22, D34): an image is refused in exactly these cases, tested in this order. -/
def Obligations.ImageRefusedInOrder : Prop :=
  ∀ (buf : List Byte) (ram : Memory),
    let magic := buf.take 4 = [0x4E, 0x45, 0x53, 0x1A]
    let mapper := (imageByte buf 7 &&& 0xF0#8) ||| (imageByte buf 6 >>> 4)
    let trainer := if (imageByte buf 6).getLsbD 2 then 512 else 0
    let declared := 16 + trainer + (imageByte buf 4).toNat * 16384 + (imageByte buf 5).toNat * 8192
    (¬ magic → loadImage buf ram = .error .invalidHeader) ∧
    (magic → buf.length < 16 → loadImage buf ram = .error .truncated) ∧
    (magic → 16 ≤ buf.length → mapper ≠ 0 → mapper ≠ 1 → loadImage buf ram = .error .unsupportedMapper) ∧
    (magic → 16 ≤ buf.length → (mapper = 0 ∨ mapper = 1) → imageByte buf 4 = 0 →
      loadImage buf ram = .error .invalidHeader) ∧
    (magic → 16 ≤ buf.length → (mapper = 0 ∨ mapper = 1) → imageByte buf 4 ≠ 0 → buf.length < declared →
      loadImage buf ram = .error .truncated) ∧
    (magic → 16 ≤ buf.length → (mapper = 0 ∨ mapper = 1) → imageByte buf 4 ≠ 0 → declared ≤ buf.length →
      ∃ c, loadImage buf ram = .ok c)

/-- R70, R72 and spec/10_state.md R44: what an accepted image loads as. PRG and CHR bytes are the image's after the
header and the trainer; CHR-RAM is zero; the MMC1 registers are at their power-on values (decision D16), and
`has_prg_ram` is decision D20. -/
def Obligations.ImageLoadsItsBytes : Prop :=
  ∀ (buf : List Byte) (ram : Memory) (c : Cart), loadImage buf ram = .ok c →
    let start := if (imageByte buf 6).getLsbD 2 then 16 + 512 else 16
    let mapper := (imageByte buf 7 &&& 0xF0#8) ||| (imageByte buf 6 >>> 4)
    c.config.prgBanks16k = (imageByte buf 4).toNat ∧ c.config.chrBanks8k = (imageByte buf 5).toNat ∧
    c.config.hasPrgRam = (mapper == 1 || (imageByte buf 6).getLsbD 1) ∧
    c.config.mirroringInit =
      (if (imageByte buf 6).getLsbD 3 then .fourScreen else if (imageByte buf 6).getLsbD 0 then .vertical
        else .horizontal) ∧
    c.board = (if mapper = 0 then .nrom
      else .mmc1 { shift := 0, count := 0, control := 0x0C, chrBank0 := 0, chrBank1 := 0, prgBank := 0 }) ∧
    c.mirroring = c.config.mirroringInit ∧ c.chrRam = [] ∧
    c.prgRam = (if c.config.hasPrgRam then ram else []) ∧
    (∀ i, i < c.config.prgBanks16k * 16384 → c.prgRom.read i = imageByte buf (start + i)) ∧
    (∀ i, i < c.config.chrBanks8k * 8192 →
      c.chrRom.read i = imageByte buf (start + c.config.prgBanks16k * 16384 + i))

/-! ## Encoding -/

/-- R100, R101, R103: decoding the encoding of an instruction, whatever bytes follow it, gives the instruction back and
those bytes. -/
def Obligations.DecodeOfEncode : Prop :=
  ∀ (i : Instr) (rest : List Byte), decode (encode i ++ rest) = .ok (i, rest)

/-- R101, R106, R107: bytes decode to an instruction only if they begin with that instruction's encoding, so every
word has one meaning. -/
def Obligations.DecodedBytesAreTheEncoding : Prop :=
  ∀ (bs : List Byte) (i : Instr) (rest : List Byte), decode bs = .ok (i, rest) → bs = encode i ++ rest

/-- R106: the illegal bytes are all of columns x3, x7, xB, xF; column x2 but for $A2; and the 26 listed. Fetching
one is refused by name; every other byte begins an instruction. And words written out from R105 and R108, one or more
per family, decode to the instructions they stand for. -/
def Obligations.OpcodeBytesDecodeAsTabled : Prop :=
  (∀ (op : Byte) (rest : List Byte),
     let low := op &&& 0x0F
     let illegal := low = 3 ∨ low = 7 ∨ low = 0xB ∨ low = 0xF ∨ (low = 2 ∧ op ≠ 0xA2) ∨
       op ∈ ([0x04, 0x0C, 0x14, 0x1C, 0x34, 0x3C, 0x44, 0x54, 0x5C, 0x64, 0x74, 0x7C, 0x80, 0x9C, 0xD4, 0xDC, 0xF4,
         0xFC, 0x89, 0x9E, 0x1A, 0x3A, 0x5A, 0x7A, 0xDA, 0xFA] : List Byte)
     (illegal → decode (op :: rest) = .error (.undocumented op)) ∧
     (¬ illegal → ∃ i : Instr, i.row.opcode = op ∧ ∃ r, decode (op :: 0 :: 0 :: rest) = .ok (i, r))) ∧
  decode [0xA9, 0x10] = .ok (.ldaImm 0x10, []) ∧ decode [0xB6, 0x10] = .ok (.ldxZpy 0x10, []) ∧
  decode [0x91, 0x10] = .ok (.staIzy 0x10, []) ∧ decode [0xBA] = .ok (.tsx, []) ∧ decode [0x28] = .ok (.plp, []) ∧
  decode [0x2C, 0x00, 0x03] = .ok (.bitAbs 0x0300, []) ∧ decode [0xFD, 0x34, 0x12] = .ok (.sbcAbx 0x1234, []) ∧
  decode [0x0A] = .ok (.aslAcc, []) ∧ decode [0xDE, 0xFF, 0x02] = .ok (.decAbx 0x02FF, []) ∧
  decode [0xE0, 0x10] = .ok (.cpxImm 0x10, []) ∧ decode [0xD0, 0xFB] = .ok (.bne 0xFB, []) ∧
  decode [0x6C, 0xFF, 0x02] = .ok (.jmpInd 0x02FF, []) ∧ decode [0x20, 0x00, 0x03] = .ok (.jsr 0x0300, []) ∧
  decode [0x00, 0xEA] = .ok (.brk, [0xEA]) ∧ decode [0x78] = .ok (.sei, [])

/-! ## The step -/

/-- R120: at a boundary that runs an instruction, if the bytes a fetch reads from PC up decode to `i`, the step is `i`
executed on the machine after exactly `i`'s bytes are fetched, PC past them. -/
def Obligations.StepRunsTheDecodedInstruction : Prop :=
  ∀ (s u : State) (i : Instr) (rest : List Byte), boundary s = .run u →
    decode (readBytes 3 u).1 = .ok (i, rest) →
    step s = exec i (readBytes (encode i).length u).2 ∧
    (readBytes (encode i).length u).1 = encode i ∧
    (readBytes (encode i).length u).2.pc = u.pc + BitVec.ofNat 16 (encode i).length

/-- R251 (2) to (5), R257: a machine that is not halted runs an instruction exactly when no NMI is seen and IRQ is low or
masked, and then only the inputs, the outputs and the NMI bookkeeping have changed. -/
def Obligations.InstructionRunsUnlessInterrupted : Prop :=
  ∀ s : State, s.halted = false → nmiSeen s = false → (irqLevel s = false ∨ flagI s.p = true) →
    ∃ u, boundary s = .run u ∧ u.a = s.a ∧ u.x = s.x ∧ u.y = s.y ∧ u.sp = s.sp ∧ u.p = s.p ∧ u.pc = s.pc ∧
      u.cycles = s.cycles ∧ u.dmaPage = s.dmaPage ∧ u.halted = false ∧ MemoryKept s u ∧
      u.nmiPending = false ∧ u.nmiPrev = nmiLevel s ∧ u.irqLine = irqLevel s ∧
      u.out.bus = [] ∧ u.out.ports = .pollNmi (nmiLevel s) :: s.out.ports ∧ u.env.portAnswers = s.env.portAnswers

/-- R262 (decision D13): an undocumented byte at PC faults with the byte and its address; the machine it leaves has made
the opcode read, is halted, and is otherwise as the boundary left it. -/
def Obligations.UndocumentedOpcodeFaults : Prop :=
  ∀ s u : State, boundary s = .run u → formatOf (busRead u.pc u).1 = none →
    step s = .fault (.badOpcode (busRead u.pc u).1 s.pc) ∧
    let t := afterStep s
    t.halted = true ∧ t.a = s.a ∧ t.x = s.x ∧ t.y = s.y ∧ t.sp = s.sp ∧ t.p = s.p ∧ t.pc = s.pc ∧
    t.cycles = s.cycles ∧ t.dmaPage = s.dmaPage ∧ MemoryKept s t ∧
    t.out.bus = [.read s.pc (busRead u.pc u).1] ∧ t.out.returned = none

/-- R251 (1), R262: "if `halted = 1` there is no step", no interrupt is serviced, and only reset clears `halted`. That
"no step" is the outcome `.fault .halted`, and that the host then holds the same machine, is the model's reading, log
entry 7. -/
def Obligations.HaltedMachineTakesNoStep : Prop :=
  ∀ s : State, s.halted = true →
    step s = .fault .halted ∧ afterStep s = s ∧ (resetCpu s).halted = false

/-- R253 (decision D4): `PollNmi()` sets the latch on a rising edge only, never clears it, remembers the level, makes one
port call, and changes nothing else. That the level comes from `nmiPlan`, one entry a call, and from `nmiLine` when the
plan is used up, is the model's choice, log entry 3. -/
def Obligations.PollNmiLatchesRisingEdge : Prop :=
  ∀ s : State,
    let t := pollNmi s
    (t.nmiPending = true ↔ s.nmiPending = true ∨ (nmiLevel s = true ∧ s.nmiPrev = false)) ∧
    t.nmiPrev = nmiLevel s ∧ t.out = { s.out with ports := .pollNmi (nmiLevel s) :: s.out.ports } ∧
    t = { s with nmiPending := t.nmiPending, nmiPrev := t.nmiPrev, env := t.env, out := t.out } ∧ MemoryKept s t ∧
    t.env = { s.env with nmiPlan := s.env.nmiPlan.tail } ∧
    (∀ b bs, s.env.nmiPlan = b :: bs → nmiLevel s = b ∧ t.env.nmiPlan = bs) ∧
    (s.env.nmiPlan = [] → nmiLevel s = s.env.nmiLine ∧ t.env.nmiPlan = [])

/-- R254, R257, R258: at a boundary with an NMI seen, whatever I is and whatever IRQ does, the step is the NMI entry:
PC high, PC low and P with B = 0 pushed, I set, PC from $FFFA, 7 cycles, the latch cleared, and no opcode fetched. -/
def Obligations.NmiEntersFirst : Prop :=
  ∀ s : State, s.halted = false → nmiSeen s = true → s.dmaPage = none →
    ∃ t, step s = .next t ∧ t.a = s.a ∧ t.x = s.x ∧ t.y = s.y ∧ t.sp = s.sp - 3 ∧ t.p = s.p ||| 0x04 ∧
      t.pc = vectorTarget 0xFFFA s.cart ∧ t.cycles = s.cycles + 7 ∧ t.out.returned = some 7 ∧
      t.nmiPending = false ∧ t.nmiPrev = nmiLevel s ∧ t.irqLine = irqLevel s ∧ t.halted = false ∧ t.dmaPage = none ∧
      RamStores [(stackSlot (s.sp - 2), (s.p ||| 0x20)), (stackSlot (s.sp - 1), loByte s.pc),
        (stackSlot s.sp, hiByte s.pc)] s t ∧
      t.out.bus.reverse = [.write (stackSlot s.sp) (hiByte s.pc), .write (stackSlot (s.sp - 1)) (loByte s.pc),
        .write (stackSlot (s.sp - 2)) (s.p ||| 0x20), .read 0xFFFA (s.cart.cpuRead 0xFFFA),
        .read 0xFFFB (s.cart.cpuRead 0xFFFB)] ∧
      t.out.ports = .pollNmi (nmiLevel s) :: s.out.ports

/-- R255, R258, R260 (decisions D6, D7): with no NMI seen, IRQ high and I clear, the step is the IRQ entry, through
$FFFE, or through $FFFA if the second poll of the step sees a rising edge; the line is not cleared. -/
def Obligations.IrqEntersWhenUnmasked : Prop :=
  ∀ s : State, s.halted = false → nmiSeen s = false → irqLevel s = true → flagI s.p = false → s.dmaPage = none →
    let second := nmiLevel (pollNmi s)
    let vector := if second && !nmiLevel s then (0xFFFA : Word) else 0xFFFE
    ∃ t, step s = .next t ∧ t.a = s.a ∧ t.x = s.x ∧ t.y = s.y ∧ t.sp = s.sp - 3 ∧ t.p = s.p ||| 0x04 ∧
      t.pc = vectorTarget vector s.cart ∧ t.cycles = s.cycles + 7 ∧ t.out.returned = some 7 ∧
      t.nmiPending = false ∧ t.nmiPrev = second ∧ t.irqLine = true ∧ t.halted = false ∧ t.dmaPage = none ∧
      RamStores [(stackSlot (s.sp - 2), (s.p ||| 0x20)), (stackSlot (s.sp - 1), loByte s.pc),
        (stackSlot s.sp, hiByte s.pc)] s t ∧
      t.out.bus.reverse = [.write (stackSlot s.sp) (hiByte s.pc), .write (stackSlot (s.sp - 1)) (loByte s.pc),
        .write (stackSlot (s.sp - 2)) (s.p ||| 0x20), .read vector (s.cart.cpuRead vector),
        .read (vector + 1) (s.cart.cpuRead (vector + 1))] ∧
      t.out.ports = .pollNmi second :: .pollNmi (nmiLevel s) :: s.out.ports

/-- R230, R258, R260 (decisions D7, D11, D32): BRK pushes the address after its padding byte and P with B = 1, sets I and
goes through $FFFE, or through $FFFA with the latch cleared if an NMI is seen after the status push. -/
def Obligations.BrkEnters : Prop :=
  ∀ s : State, s.dmaPage = none →
    ∃ t, exec .brk s = .next t ∧ t.a = s.a ∧ t.x = s.x ∧ t.y = s.y ∧ t.sp = s.sp - 3 ∧ t.p = s.p ||| 0x04 ∧
      t.pc = vectorTarget (hijackVector s) s.cart ∧ t.cycles = s.cycles + 7 ∧ t.out.returned = some 7 ∧
      t.nmiPending = false ∧ t.nmiPrev = nmiLevel s ∧ t.irqLine = s.irqLine ∧ t.halted = s.halted ∧
      t.dmaPage = none ∧
      RamStores [(stackSlot (s.sp - 2), (s.p ||| 0x30)), (stackSlot (s.sp - 1), loByte (s.pc + 1)),
        (stackSlot s.sp, hiByte (s.pc + 1))] s t ∧
      t.out.bus = [.read (hijackVector s + 1) (s.cart.cpuRead (hijackVector s + 1)),
        .read (hijackVector s) (s.cart.cpuRead (hijackVector s)), .write (stackSlot (s.sp - 2)) (s.p ||| 0x30),
        .write (stackSlot (s.sp - 1)) (loByte (s.pc + 1)), .write (stackSlot s.sp) (hiByte (s.pc + 1))] ++ s.out.bus ∧
      t.out.ports = .pollNmi (nmiLevel s) :: s.out.ports

/-- R231 (decision D12): RTI pulls P, with bit 4 discarded and bit 5 set, then PC low and PC high, and adds nothing. -/
def Obligations.RtiPullsStatusThenPc : Prop :=
  ∀ s : State, s.dmaPage = none →
    ∃ t, exec .rti s = .next t ∧ t.a = s.a ∧ t.x = s.x ∧ t.y = s.y ∧ t.sp = s.sp + 3 ∧
      (∃ v l h, peek (stackSlot (s.sp + 1)) s = some v ∧ peek (stackSlot (s.sp + 2)) s = some l ∧
        peek (stackSlot (s.sp + 3)) s = some h ∧ t.p = (v &&& 0xCF) ||| 0x20 ∧ t.pc = wordOf h l) ∧
      t.cycles = s.cycles + 6 ∧ t.out.returned = some 6 ∧ MemoryKept s t ∧ InterruptsKept s t ∧ t.env = s.env

/-- R261: an RTI right after an interrupt entry, hijacked or not, gives back PC, P and SP, and clears I again if the
interrupted code had it clear. -/
def Obligations.ReturnUndoesEntry : Prop :=
  ∀ (s : State) (vector : Word) (b hijackable : Bool), s.p &&& 0x30 = 0x20 →
    let t := returnFromInterrupt (interruptEntry vector b hijackable s)
    t.pc = s.pc ∧ t.p = s.p ∧ t.sp = s.sp ∧ t.a = s.a ∧ t.x = s.x ∧ t.y = s.y ∧ t.cart = s.cart

/-- R260, R251: no step leaves an NMI latched, because an edge seen at the boundary is serviced in that step and one seen
by a re-poll is consumed by the hijack. -/
def Obligations.NoNmiStaysLatchedAfterAStep : Prop :=
  ∀ s t : State, step s = .next t → t.nmiPending = false

/-- R133, R309 (c): every step returns its cycle count, which is from 2 to 521, and adds exactly that to `cycles`. -/
def Obligations.StepReturnsItsCycleCount : Prop :=
  ∀ s t : State, s.dmaPage = none → step s = .next t →
    ∃ n, t.out.returned = some n ∧ 2 ≤ n ∧ n ≤ 521 ∧ t.cycles = s.cycles + BitVec.ofNat 64 n

/-- R306 (decision D8): the transactions of an instruction's step are its bytes' reads, then the accesses the table of
R306 lists, in that order, then the 256 reads of an OAMDMA if it wrote $4014, and no others. -/
def Obligations.ExactBusTransactions : Prop :=
  ∀ (s u v : State) (i : Instr), s.dmaPage = none → boundary s = .run u → fetchInstr u = .instr i v →
    ∃ t own dma, step s = .next t ∧ t.out.bus = dma ++ own ∧
      own.reverse.map BusTxn.access = fetchAccesses s.pc i.row.mode.length ++ instrAccesses i v ∧
      (∀ page, .write 0x4014 page ∈ own → dma.reverse.map BusTxn.access = dmaAccesses page) ∧
      ((∀ page, .write 0x4014 page ∉ own) → dma = [])

/-! ## Addressing -/

/-- R123 to R126, R128 to R132 (decision D14 for the wraps), R133, R134: every mode's effective address, page crossing and
pointer reads, as numbers; the operand is then read once at that address, but for Immediate; the page penalty is 1, on
the AbsoluteX, AbsoluteY and IndirectY forms of the nine read instructions, when the page is crossed. -/
def Obligations.AddressingModesGiveTheirNumbers : Prop :=
  (∀ (s : State) (z : Byte) (a : Word),
    let plain (o : Operand) (n : Nat) : Prop :=
      (effective o s).1.addr.toNat = n ∧ (effective o s).1.crossed = false ∧ (effective o s).2 = s
    let indexedBy (e : Ea) (base index : Nat) : Prop :=
      e.addr.toNat = (base + index) % 65536 ∧ (e.crossed = true ↔ (base + index) % 65536 / 256 ≠ base / 256)
    let readAt (n : Nat) (u : State) := busRead (BitVec.ofNat 16 n) u
    plain (.zeroPage z) z.toNat ∧
    plain (.zeroPageX z) ((z.toNat + s.x.toNat) % 256) ∧
    plain (.zeroPageY z) ((z.toNat + s.y.toNat) % 256) ∧
    plain (.absolute a) a.toNat ∧
    (indexedBy (effective (.absoluteX a) s).1 a.toNat s.x.toNat ∧ (effective (.absoluteX a) s).2 = s) ∧
    (indexedBy (effective (.absoluteY a) s).1 a.toNat s.y.toNat ∧ (effective (.absoluteY a) s).2 = s) ∧
    (let l := readAt a.toNat s
     let h := readAt (a.toNat / 256 * 256 + (a.toNat % 256 + 1) % 256) l.2
     let e := effective (.indirect a) s
     e.1.addr.toNat = h.1.toNat * 256 + l.1.toNat ∧ e.1.crossed = false ∧ e.2 = h.2) ∧
    (let p := (z.toNat + s.x.toNat) % 256
     let l := readAt p s
     let h := readAt ((p + 1) % 256) l.2
     let e := effective (.indirectX z) s
     e.1.addr.toNat = h.1.toNat * 256 + l.1.toNat ∧ e.1.crossed = false ∧ e.2 = h.2) ∧
    (let l := readAt z.toNat s
     let h := readAt ((z.toNat + 1) % 256) l.2
     let e := effective (.indirectY z) s
     indexedBy e.1 (h.1.toNat * 256 + l.1.toNat) s.y.toNat ∧ e.2 = h.2) ∧
    readOperand (.immediate z) s = { value := z, crossed := false, after := s } ∧
    (∀ o : Operand, (∀ v, o ≠ .immediate v) →
      let e := effective o s
      let r := busRead e.1.addr e.2
      readOperand o s = { value := r.1, crossed := e.1.crossed, after := r.2 })) ∧
  (∀ (i : Instr) (crossed : Bool),
    let penalized := i.row.mode ∈ [Mode.absoluteX, .absoluteY, .indirectY] ∧
      i.row.mnemonic ∈ [Mnemonic.lda, .ldx, .ldy, .and, .ora, .eor, .adc, .sbc, .cmp]
    (penalized → tableCycles i crossed = i.row.cycles + crossed.toNat) ∧
    (¬ penalized → tableCycles i crossed = i.row.cycles))

/-! ## Loads, stores, transfers, stack -/

/-- R140 to R142, R133, R134: LDA, LDX and LDY in every mode move the operand to their register, set Z and N from it, and
change no other register, flag or byte of memory; the count is the table's, one more when the page is crossed. -/
def Obligations.LoadsMoveTheOperand : Prop :=
  ∀ (i : Instr) (o : Operand) (s : State), s.dmaPage = none → Operand.of i = some o →
    (i.row.mnemonic = .lda ∨ i.row.mnemonic = .ldx ∨ i.row.mnemonic = .ldy) →
    let m := readOperand o s
    ∃ t, exec i s = .next t ∧
      t.a = (if i.row.mnemonic = .lda then m.value else s.a) ∧
      t.x = (if i.row.mnemonic = .ldx then m.value else s.x) ∧
      t.y = (if i.row.mnemonic = .ldy then m.value else s.y) ∧
      flagZ t.p = (m.value == 0) ∧ flagN t.p = m.value.getLsbD 7 ∧ FlagsKept 0x82 s.p t.p ∧
      t.sp = s.sp ∧ t.pc = s.pc ∧ MemoryKept s t ∧ InterruptsKept s t ∧ Ended (tableCycles i m.crossed) m.after t

/-- R143 to R145, R54, R63, R135: STA, STX and STY in every mode store their register at the effective address and
change no register and no flag; the count is the table's, crossed or not, and a store to $4014 adds the OAMDMA's 513,
or 514 when `cycles` is odd at its end (decisions D9, D26). -/
def Obligations.StoresWriteTheirRegister : Prop :=
  ∀ (i : Instr) (o : Operand) (s : State), s.dmaPage = none → Operand.of i = some o →
    (i.row.mnemonic = .sta ∨ i.row.mnemonic = .stx ∨ i.row.mnemonic = .sty) →
    let e := effective o s
    let v := if i.row.mnemonic = .sta then s.a else if i.row.mnemonic = .stx then s.x else s.y
    let u := busWrite e.1.addr v e.2
    let n := i.row.cycles
    let ended := s.cycles + BitVec.ofNat 64 n
    ∃ t, exec i s = .next t ∧ t.a = s.a ∧ t.x = s.x ∧ t.y = s.y ∧ t.sp = s.sp ∧ t.p = s.p ∧ t.pc = s.pc ∧
      StoredAt e.1.addr v s t ∧ InterruptsKept s t ∧
      (e.1.addr ≠ 0x4014 → Ended n u t) ∧
      (e.1.addr = 0x4014 → Ended (n + 513 + ended.toNat % 2) (oamDma v u) t)

/-- R150 to R155: the transfers move source to destination; all but TXS set Z and N from the moved byte; 2 cycles. -/
def Obligations.TransfersMoveSourceToDestination : Prop :=
  ∀ s : State, s.dmaPage = none →
    (∃ t, exec .tax s = .next t ∧ t.x = s.a ∧ flagZ t.p = (s.a == 0) ∧ flagN t.p = s.a.getLsbD 7 ∧
      FlagsKept 0x82 s.p t.p ∧ t.a = s.a ∧ t.y = s.y ∧ t.sp = s.sp ∧ t.pc = s.pc ∧ MemoryKept s t ∧
      InterruptsKept s t ∧ Ended 2 s t) ∧
    (∃ t, exec .txa s = .next t ∧ t.a = s.x ∧ flagZ t.p = (s.x == 0) ∧ flagN t.p = s.x.getLsbD 7 ∧
      FlagsKept 0x82 s.p t.p ∧ t.x = s.x ∧ t.y = s.y ∧ t.sp = s.sp ∧ t.pc = s.pc ∧ MemoryKept s t ∧
      InterruptsKept s t ∧ Ended 2 s t) ∧
    (∃ t, exec .tay s = .next t ∧ t.y = s.a ∧ flagZ t.p = (s.a == 0) ∧ flagN t.p = s.a.getLsbD 7 ∧
      FlagsKept 0x82 s.p t.p ∧ t.a = s.a ∧ t.x = s.x ∧ t.sp = s.sp ∧ t.pc = s.pc ∧ MemoryKept s t ∧
      InterruptsKept s t ∧ Ended 2 s t) ∧
    (∃ t, exec .tya s = .next t ∧ t.a = s.y ∧ flagZ t.p = (s.y == 0) ∧ flagN t.p = s.y.getLsbD 7 ∧
      FlagsKept 0x82 s.p t.p ∧ t.x = s.x ∧ t.y = s.y ∧ t.sp = s.sp ∧ t.pc = s.pc ∧ MemoryKept s t ∧
      InterruptsKept s t ∧ Ended 2 s t) ∧
    (∃ t, exec .tsx s = .next t ∧ t.x = s.sp ∧ flagZ t.p = (s.sp == 0) ∧ flagN t.p = s.sp.getLsbD 7 ∧
      FlagsKept 0x82 s.p t.p ∧ t.a = s.a ∧ t.y = s.y ∧ t.sp = s.sp ∧ t.pc = s.pc ∧ MemoryKept s t ∧
      InterruptsKept s t ∧ Ended 2 s t) ∧
    (∃ t, exec .txs s = .next t ∧ t.sp = s.x ∧ t.p = s.p ∧ t.a = s.a ∧ t.x = s.x ∧ t.y = s.y ∧ t.pc = s.pc ∧
      MemoryKept s t ∧ InterruptsKept s t ∧ Ended 2 s t)

/-- R156, R158, R21: PHA pushes A, PHP pushes P with bits 5 and 4 set; the byte goes to $0100 | SP, then SP falls by 1
modulo 256; no register, flag or other byte changes; 3 cycles. -/
def Obligations.PushesStoreAtTheStack : Prop :=
  ∀ (s : State) (i : Instr) (v : Byte), s.dmaPage = none → (i, v) ∈ [(Instr.pha, s.a), (Instr.php, s.p ||| 0x30)] →
    ∃ t, exec i s = .next t ∧ RamStores [(stackSlot s.sp, v)] s t ∧ peek (stackSlot s.sp) t = some v ∧
      t.sp = s.sp - 1 ∧ t.a = s.a ∧ t.x = s.x ∧ t.y = s.y ∧ t.p = s.p ∧ t.pc = s.pc ∧ InterruptsKept s t ∧
      t.cycles = s.cycles + 3 ∧ t.env = s.env ∧ t.out.bus = .write (stackSlot s.sp) v :: s.out.bus ∧
      t.out.ports = s.out.ports ∧ t.out.returned = some 3

/-- R157, R159, R21 (decision D12 for PLP): SP grows by 1 modulo 256 and the byte at $0100 | SP is pulled; PLA puts it in
A and sets Z and N, PLP puts its six flags in P with bit 5 set and bit 4 clear; 4 cycles. -/
def Obligations.PullsReadTheStack : Prop :=
  ∀ s : State, s.dmaPage = none → ∃ v, peek (stackSlot (s.sp + 1)) s = some v ∧
    (∃ t, exec .pla s = .next t ∧ t.a = v ∧ flagZ t.p = (v == 0) ∧ flagN t.p = v.getLsbD 7 ∧ FlagsKept 0x82 s.p t.p ∧
      t.sp = s.sp + 1 ∧ t.x = s.x ∧ t.y = s.y ∧ t.pc = s.pc ∧ MemoryKept s t ∧ InterruptsKept s t ∧
      t.cycles = s.cycles + 4 ∧ t.env = s.env ∧ t.out.bus = .read (stackSlot (s.sp + 1)) v :: s.out.bus ∧
      t.out.ports = s.out.ports ∧ t.out.returned = some 4) ∧
    (∃ t, exec .plp s = .next t ∧ t.p = (v &&& 0xCF) ||| 0x20 ∧ t.sp = s.sp + 1 ∧ t.a = s.a ∧ t.x = s.x ∧ t.y = s.y ∧
      t.pc = s.pc ∧ MemoryKept s t ∧ InterruptsKept s t ∧
      t.cycles = s.cycles + 4 ∧ t.env = s.env ∧ t.out.bus = .read (stackSlot (s.sp + 1)) v :: s.out.bus ∧
      t.out.ports = s.out.ports ∧ t.out.returned = some 4)

/-- Laws L1 and L2 of spec/95_test_vectors.md (R158, R159; R156, R150, R157): `PHP; PLP` restores P and SP exactly, and
`PHA; TAX; PLA` leaves A and X equal to the original A, with SP as at the start. -/
def Obligations.PushPullRoundTrips : Prop :=
  ∀ s : State, s.dmaPage = none → s.p &&& 0x30 = 0x20 →
    (∃ t u, exec .php s = .next t ∧ exec .plp t = .next u ∧ u.p = s.p ∧ u.sp = s.sp ∧ u.a = s.a) ∧
    (∃ t u v, exec .pha s = .next t ∧ exec .tax t = .next u ∧ exec .pla u = .next v ∧ v.a = s.a ∧ v.x = s.a ∧
      v.sp = s.sp ∧ flagZ v.p = (s.a == 0) ∧ flagN v.p = s.a.getLsbD 7)

/-! ## Logic and arithmetic -/

/-- R170 to R172: AND, ORA and EOR in every mode combine A with the operand into A, set Z and N from the result, and
change nothing else; the count is the table's, one more when the page is crossed. -/
def Obligations.LogicCombinesIntoA : Prop :=
  ∀ (i : Instr) (o : Operand) (s : State), s.dmaPage = none → Operand.of i = some o →
    (i.row.mnemonic = .and ∨ i.row.mnemonic = .ora ∨ i.row.mnemonic = .eor) →
    let m := readOperand o s
    let r := if i.row.mnemonic = .and then s.a &&& m.value else if i.row.mnemonic = .ora then s.a ||| m.value
      else s.a ^^^ m.value
    ∃ t, exec i s = .next t ∧ t.a = r ∧ flagZ t.p = (r == 0) ∧ flagN t.p = r.getLsbD 7 ∧ FlagsKept 0x82 s.p t.p ∧
      t.x = s.x ∧ t.y = s.y ∧ t.sp = s.sp ∧ t.pc = s.pc ∧ MemoryKept s t ∧ InterruptsKept s t ∧
      Ended (tableCycles i m.crossed) m.after t

/-- R173: "BIT copies bit 7 to N and bit 6 to V, Z from `A & operand`"; A, C and everything else stay. -/
def Obligations.BitCopiesOperandBits : Prop :=
  ∀ (i : Instr) (o : Operand) (s : State), s.dmaPage = none → Operand.of i = some o → i.row.mnemonic = .bit →
    let m := readOperand o s
    ∃ t, exec i s = .next t ∧ flagN t.p = m.value.getLsbD 7 ∧ flagV t.p = m.value.getLsbD 6 ∧
      flagZ t.p = ((s.a &&& m.value) == 0) ∧ FlagsKept 0xC2 s.p t.p ∧
      t.a = s.a ∧ t.x = s.x ∧ t.y = s.y ∧ t.sp = s.sp ∧ t.pc = s.pc ∧ MemoryKept s t ∧ InterruptsKept s t ∧
      Ended (tableCycles i false) m.after t

/-- R180, R182: ADC in every mode. The result is the sum of A, the operand and the carry modulo 256, C is set when the
sum is above $FF, V when the signed sum lies outside -128 to +127, Z and N from the result; D is not read. -/
def Obligations.AdcAddsWithCarry : Prop :=
  ∀ (i : Instr) (o : Operand) (s : State), s.dmaPage = none → Operand.of i = some o → i.row.mnemonic = .adc →
    let m := readOperand o s
    let sum := s.a.toNat + m.value.toNat + (flagC s.p).toNat
    let signed := s.a.toInt + m.value.toInt + (flagC s.p).toNat
    ∃ t, exec i s = .next t ∧ t.a.toNat = sum % 256 ∧ (flagC t.p = true ↔ 255 < sum) ∧
      (flagV t.p = true ↔ signed < -128 ∨ 127 < signed) ∧
      flagV t.p = ((~~~(s.a ^^^ m.value) &&& (s.a ^^^ t.a) &&& 0x80) != 0) ∧
      flagZ t.p = (t.a == 0) ∧ flagN t.p = t.a.getLsbD 7 ∧ FlagsKept 0xC3 s.p t.p ∧
      t.x = s.x ∧ t.y = s.y ∧ t.sp = s.sp ∧ t.pc = s.pc ∧ MemoryKept s t ∧ InterruptsKept s t ∧
      Ended (tableCycles i m.crossed) m.after t

/-- R181: SBC in every mode. The result is A - M - (1 - C) modulo 256, C is set exactly when no borrow occurred, V when
the signed result lies outside -128 to +127, Z and N from the result. -/
def Obligations.SbcSubtractsWithBorrow : Prop :=
  ∀ (i : Instr) (o : Operand) (s : State), s.dmaPage = none → Operand.of i = some o → i.row.mnemonic = .sbc →
    let m := readOperand o s
    let borrow := 1 - (flagC s.p).toNat
    let signed := s.a.toInt - m.value.toInt - borrow
    ∃ t, exec i s = .next t ∧ (t.a.toNat : Int) = ((s.a.toNat : Int) - m.value.toNat - borrow) % 256 ∧
      (flagC t.p = true ↔ m.value.toNat + borrow ≤ s.a.toNat) ∧
      (flagV t.p = true ↔ signed < -128 ∨ 127 < signed) ∧
      flagZ t.p = (t.a == 0) ∧ flagN t.p = t.a.getLsbD 7 ∧ FlagsKept 0xC3 s.p t.p ∧
      t.x = s.x ∧ t.y = s.y ∧ t.sp = s.sp ∧ t.pc = s.pc ∧ MemoryKept s t ∧ InterruptsKept s t ∧
      Ended (tableCycles i m.crossed) m.after t

/-- R182: "D flag is ignored per NES 2A03". With D set or clear, ADC and SBC in every mode give the same next state but
for the D bit of P itself. -/
def Obligations.ArithmeticIgnoresDecimal : Prop :=
  ∀ (i : Instr) (s : State) (d : Bool), (i.row.mnemonic = .adc ∨ i.row.mnemonic = .sbc) →
    ∃ t u, exec i s = .next t ∧ exec i (s.setP (setD d s.p)) = .next u ∧
      u = t.setP (setD d t.p)

/-- R200 to R202: CMP, CPX and CPY in every mode set C when the register is at least the operand as unsigned numbers, Z
when they are equal, N to bit 7 of the difference, and change no register, V, D or I. -/
def Obligations.ComparesSetFlagsOnly : Prop :=
  ∀ (i : Instr) (o : Operand) (s : State), s.dmaPage = none → Operand.of i = some o →
    (i.row.mnemonic = .cmp ∨ i.row.mnemonic = .cpx ∨ i.row.mnemonic = .cpy) →
    let m := readOperand o s
    let r := if i.row.mnemonic = .cmp then s.a else if i.row.mnemonic = .cpx then s.x else s.y
    ∃ t, exec i s = .next t ∧ (flagC t.p = true ↔ m.value.toNat ≤ r.toNat) ∧ (flagZ t.p = true ↔ r = m.value) ∧
      flagN t.p = (r - m.value).getLsbD 7 ∧ FlagsKept 0x83 s.p t.p ∧
      t.a = s.a ∧ t.x = s.x ∧ t.y = s.y ∧ t.sp = s.sp ∧ t.pc = s.pc ∧ MemoryKept s t ∧ InterruptsKept s t ∧
      Ended (tableCycles i m.crossed) m.after t

/-! ## Shifts, increments, decrements -/

/-- R190 to R193 on the accumulator: ASL, LSR, ROL, ROR shift A by one, the bit shifted out to C, 0 or the old C in, Z
and N from the result; 2 cycles, no memory access. -/
def Obligations.AccumulatorShifts : Prop :=
  ∀ (s : State) (i : Instr) (r : Byte) (out : Bool), s.dmaPage = none →
    (i, r, out) ∈ [(Instr.aslAcc, BitVec.ofNat 8 (2 * s.a.toNat), s.a.getLsbD 7),
      (Instr.lsrAcc, BitVec.ofNat 8 (s.a.toNat / 2), s.a.getLsbD 0),
      (Instr.rolAcc, BitVec.ofNat 8 (2 * s.a.toNat + (flagC s.p).toNat), s.a.getLsbD 7),
      (Instr.rorAcc, BitVec.ofNat 8 (s.a.toNat / 2 + 128 * (flagC s.p).toNat), s.a.getLsbD 0)] →
    ∃ t, exec i s = .next t ∧ t.a = r ∧ flagC t.p = out ∧ flagZ t.p = (r == 0) ∧ flagN t.p = r.getLsbD 7 ∧
      FlagsKept 0x83 s.p t.p ∧ t.x = s.x ∧ t.y = s.y ∧ t.sp = s.sp ∧ t.pc = s.pc ∧ MemoryKept s t ∧
      InterruptsKept s t ∧ Ended 2 s t

/-- R190 to R193, R203, R204 on memory (decision D8): one read and one write of the effective address, which gets the
result; C is the bit shifted out for the shifts and stays for INC and DEC; Z and N from the result; A, X, Y stay; the
count is the table's, and a write to $4014 adds the OAMDMA's. -/
def Obligations.ReadModifyWriteUpdatesMemory : Prop :=
  ∀ (i : Instr) (o : Operand) (s : State), s.dmaPage = none → Operand.of i = some o →
    (i.row.mnemonic = .asl ∨ i.row.mnemonic = .lsr ∨ i.row.mnemonic = .rol ∨ i.row.mnemonic = .ror ∨
      i.row.mnemonic = .inc ∨ i.row.mnemonic = .dec) →
    let e := effective o s
    let v := (busRead e.1.addr e.2).1
    let c := (flagC s.p).toNat
    let r : Byte :=
      if i.row.mnemonic = .asl then BitVec.ofNat 8 (2 * v.toNat)
      else if i.row.mnemonic = .lsr then BitVec.ofNat 8 (v.toNat / 2)
      else if i.row.mnemonic = .rol then BitVec.ofNat 8 (2 * v.toNat + c)
      else if i.row.mnemonic = .ror then BitVec.ofNat 8 (v.toNat / 2 + 128 * c)
      else if i.row.mnemonic = .inc then v + 1 else v - 1
    let carry :=
      if i.row.mnemonic = .asl ∨ i.row.mnemonic = .rol then v.getLsbD 7
      else if i.row.mnemonic = .lsr ∨ i.row.mnemonic = .ror then v.getLsbD 0 else flagC s.p
    let u := busWrite e.1.addr r (busRead e.1.addr e.2).2
    let n := i.row.cycles
    let ended := s.cycles + BitVec.ofNat 64 n
    ∃ t, exec i s = .next t ∧ StoredAt e.1.addr r s t ∧
      flagC t.p = carry ∧ flagZ t.p = (r == 0) ∧ flagN t.p = r.getLsbD 7 ∧ FlagsKept 0x83 s.p t.p ∧
      t.a = s.a ∧ t.x = s.x ∧ t.y = s.y ∧ t.sp = s.sp ∧ t.pc = s.pc ∧ InterruptsKept s t ∧
      (e.1.addr ≠ 0x4014 → Ended n u t) ∧
      (e.1.addr = 0x4014 → Ended (n + 513 + ended.toNat % 2) (oamDma r u) t)

/-- R205 to R208: INX, INY, DEX and DEY add or subtract 1 modulo 256 and set Z and N from the result; 2 cycles. -/
def Obligations.IndexRegistersCount : Prop :=
  ∀ s : State, s.dmaPage = none →
    ∀ (i : Instr) (x y r : Byte), (i, x, y, r) ∈ [(Instr.inx, s.x + 1, s.y, s.x + 1), (Instr.iny, s.x, s.y + 1, s.y + 1),
        (Instr.dex, s.x - 1, s.y, s.x - 1), (Instr.dey, s.x, s.y - 1, s.y - 1)] →
      ∃ t, exec i s = .next t ∧ t.x = x ∧ t.y = y ∧ flagZ t.p = (r == 0) ∧ flagN t.p = r.getLsbD 7 ∧
        FlagsKept 0x82 s.p t.p ∧ t.a = s.a ∧ t.sp = s.sp ∧ t.pc = s.pc ∧ MemoryKept s t ∧ InterruptsKept s t ∧
        Ended 2 s t

/-! ## Branches, jumps, calls, flags -/

/-- R210 to R218 (decision D27): each branch tests its flag; taken, PC moves by the signed displacement from the next
instruction and the count is 3, or 4 to another page; not taken, PC stays and the count is 2. No flag changes. -/
def Obligations.BranchesTestTheirFlag : Prop :=
  ∀ (s : State) (d : Byte) (i : Instr) (taken : Bool), s.dmaPage = none →
    (i, taken) ∈ [(Instr.bpl d, !flagN s.p), (Instr.bmi d, flagN s.p), (Instr.bvc d, !flagV s.p),
      (Instr.bvs d, flagV s.p), (Instr.bcc d, !flagC s.p), (Instr.bcs d, flagC s.p), (Instr.bne d, !flagZ s.p),
      (Instr.beq d, flagZ s.p)] →
    let target := s.pc + BitVec.ofInt 16 d.toInt
    let n := if !taken then 2 else if target.toNat / 256 = s.pc.toNat / 256 then 3 else 4
    ∃ t, exec i s = .next t ∧ t.pc = (if taken then target else s.pc) ∧ t.p = s.p ∧ t.a = s.a ∧ t.x = s.x ∧
      t.y = s.y ∧ t.sp = s.sp ∧ MemoryKept s t ∧ InterruptsKept s t ∧ Ended n s t

/-- R219, R220, R130: JMP Absolute goes to its operand in 3 cycles; JMP Indirect goes to the word at its operand, the
second byte read from the same page as the first, in 5. -/
def Obligations.JumpsSetPc : Prop :=
  ∀ (a : Word) (s : State), s.dmaPage = none →
    (∃ t, exec (.jmpAbs a) s = .next t ∧ t.pc = a ∧ t.p = s.p ∧ t.a = s.a ∧ t.x = s.x ∧ t.y = s.y ∧ t.sp = s.sp ∧
      MemoryKept s t ∧ InterruptsKept s t ∧ Ended 3 s t) ∧
    (let second := wordOf (hiByte a) (loByte a + 1)
     let l := busRead a s
     let h := busRead second l.2
     ∃ t, exec (.jmpInd a) s = .next t ∧ t.pc = wordOf h.1 l.1 ∧ second.toNat / 256 = a.toNat / 256 ∧
      (loByte a ≠ 0xFF → second = a + 1) ∧ t.p = s.p ∧ t.a = s.a ∧ t.x = s.x ∧ t.y = s.y ∧
      t.sp = s.sp ∧ MemoryKept s t ∧ InterruptsKept s t ∧ Ended 5 h.2 t)

/-- R221 (decision D33): JSR pushes the address of its third byte, high then low, and goes to its operand; 6 cycles. -/
def Obligations.JsrPushesReturnAddress : Prop :=
  ∀ (a : Word) (s : State), s.dmaPage = none →
    ∃ t, exec (.jsr a) s = .next t ∧ t.pc = a ∧ t.sp = s.sp - 2 ∧
      RamStores [(stackSlot (s.sp - 1), loByte (s.pc - 1)), (stackSlot s.sp, hiByte (s.pc - 1))] s t ∧
      t.p = s.p ∧ t.a = s.a ∧ t.x = s.x ∧ t.y = s.y ∧ InterruptsKept s t ∧ t.cycles = s.cycles + 6 ∧ t.env = s.env ∧
      t.out.bus = .write (stackSlot (s.sp - 1)) (loByte (s.pc - 1)) :: .write (stackSlot s.sp) (hiByte (s.pc - 1)) ::
        s.out.bus ∧ t.out.ports = s.out.ports ∧ t.out.returned = some 6

/-- R222 (decision D33): RTS pulls the low byte, then the high byte, and goes to the address after; 6 cycles. A JSR
whose RTS runs on the stack it left comes back to the instruction after the JSR with SP as it was. -/
def Obligations.RtsReturnsPastTheCall : Prop :=
  ∀ s : State, s.dmaPage = none →
    (∃ t l h, peek (stackSlot (s.sp + 1)) s = some l ∧ peek (stackSlot (s.sp + 2)) s = some h ∧
      exec .rts s = .next t ∧ t.pc = wordOf h l + 1 ∧ t.sp = s.sp + 2 ∧ t.p = s.p ∧ t.a = s.a ∧ t.x = s.x ∧ t.y = s.y ∧
      MemoryKept s t ∧ InterruptsKept s t ∧ t.cycles = s.cycles + 6 ∧ t.env = s.env ∧ t.out.returned = some 6) ∧
    (∀ a : Word, ∃ t u, exec (.jsr a) s = .next t ∧ exec .rts t = .next u ∧ u.pc = s.pc ∧ u.sp = s.sp)

/-- R232 to R239: each flag instruction writes its one flag, NOP none; every other bit of P, every register and all
memory stay; 2 cycles. -/
def Obligations.FlagInstructionsWriteOneFlag : Prop :=
  ∀ (s : State) (i : Instr) (mask value : Byte), s.dmaPage = none →
    (i, mask, value) ∈ [(Instr.clc, 0x01, 0x00), (Instr.sec, 0x01, 0x01), (Instr.cli, 0x04, 0x00),
      (Instr.sei, 0x04, 0x04), (Instr.clv, 0x40, 0x00), (Instr.cld, 0x08, 0x00), (Instr.sed, 0x08, 0x08),
      (Instr.nop, 0x00, 0x00)] →
    ∃ t, exec i s = .next t ∧ t.p &&& mask = value ∧ FlagsKept mask s.p t.p ∧ t.a = s.a ∧ t.x = s.x ∧ t.y = s.y ∧
      t.sp = s.sp ∧ t.pc = s.pc ∧ MemoryKept s t ∧ InterruptsKept s t ∧ Ended 2 s t

/-- R234, R255, R308 (decision D6): a CLI whose step ends with `irq_line` high is followed by an IRQ entry, and a SEI is
followed by none; the I flag acts at the very next boundary. -/
def Obligations.InterruptDisableActsAtNextBoundary : Prop :=
  ∀ s : State, s.dmaPage = none → s.halted = false → s.nmiPending = false →
    (∃ t, exec .cli s = .next t ∧ (nmiSeen t = false → irqLevel t = true →
      ∃ u, boundary t = .entry u ∧ u.out.bus.getLast? = some (.write (stackSlot t.sp) (hiByte t.pc)))) ∧
    (∃ t, exec .sei s = .next t ∧ (nmiSeen t = false → ∃ u, boundary t = .run u ∧ u.pc = t.pc))

/-! ## The bus decoder -/

/-- R53, R55, R56, R58, R59, R61 (decision D2): the read decoder. Each range answers from its one target, and no read
changes a register, the counter, the interrupt state or a byte of memory. That a device port uses up one answer of
`portAnswers` and counts one of `portReads` is the model's form of the input R9 (c) leaves open, log entry 4. -/
def Obligations.ReadsDecodeToOneTarget : Prop :=
  ∀ (a : Word) (s : State),
    let v := (busRead a s).1
    let t := (busRead a s).2
    let n := a.toNat
    t = { s with env := t.env, out := t.out } ∧ MemoryKept s t ∧ t.out.bus = .read a v :: s.out.bus ∧
    t.out.returned = s.out.returned ∧
    (n < 0x2000 → v = s.ram.read (n % 0x800) ∧ t.env = s.env ∧ t.out.ports = s.out.ports) ∧
    (0x2000 ≤ n → n < 0x4000 → t.out.ports = .ppuRead (BitVec.ofNat 3 (n % 8)) v :: s.out.ports) ∧
    (n = 0x4015 → t.out.ports = .apuRead v :: s.out.ports) ∧
    (n = 0x4016 → t.out.ports = .controller1Read v :: s.out.ports) ∧
    (n = 0x4017 → t.out.ports = .controller2Read v :: s.out.ports) ∧
    ((0x2000 ≤ n ∧ n < 0x4000 ∨ n = 0x4015 ∨ n = 0x4016 ∨ n = 0x4017) →
      t.env = { s.env with portAnswers := s.env.portAnswers.tail, portReads := s.env.portReads + 1 } ∧
      ∀ b bs, s.env.portAnswers = b :: bs → v = b ∧ t.env.portAnswers = bs) ∧
    ((0x4000 ≤ n ∧ n ≤ 0x4014 ∨ 0x4018 ≤ n ∧ n ≤ 0x401F) →
      v = Config.openBusValue ∧ t.env = s.env ∧ t.out.ports = s.out.ports) ∧
    (0x4020 ≤ n → v = s.cart.cpuRead a ∧ t.env = s.env ∧ t.out.ports = s.out.ports) ∧
    (0x4020 ≤ n → n < 0x6000 → v = Config.openBusValue)

/-- R54, R56, R58, R59, R60, R62: the write decoder. Each range acts on its one target and on nothing else. -/
def Obligations.WritesDecodeToOneTarget : Prop :=
  ∀ (a : Word) (v : Byte) (s : State),
    let t := busWrite a v s
    let n := a.toNat
    t.out.bus = .write a v :: s.out.bus ∧ t.a = s.a ∧ t.x = s.x ∧ t.y = s.y ∧ t.sp = s.sp ∧ t.p = s.p ∧ t.pc = s.pc ∧
    t.env = s.env ∧
    (n < 0x2000 → t.ram = s.ram.write (n % 0x800) v) ∧ (0x2000 ≤ n → t.ram = s.ram) ∧
    (n < 0x4020 → t.cart = s.cart) ∧ (0x4020 ≤ n → t.cart = s.cart.cpuWrite a v) ∧
    (n = 0x4014 → t.dmaPage = some v) ∧ (n ≠ 0x4014 → t.dmaPage = s.dmaPage) ∧
    (0x2000 ≤ n → n < 0x4000 → t.out.ports = .ppuWrite (BitVec.ofNat 3 (n % 8)) v :: s.out.ports) ∧
    ((0x4000 ≤ n ∧ n ≤ 0x4013 ∨ n = 0x4015 ∨ n = 0x4017) → t.out.ports = .apuWrite a v :: s.out.ports) ∧
    (n = 0x4016 → t.out.ports = .controller2Write (v.getLsbD 0) :: .controller1Write (v.getLsbD 0) :: s.out.ports) ∧
    ((n < 0x2000 ∨ n = 0x4014 ∨ 0x4018 ≤ n) → t.out.ports = s.out.ports)

/-- R55: "internal RAM at `addr & 0x07FF`". A read returns the last byte written to its cell through any mirror, or the
cell's value before, a write leaves every other cell as it was, and a read changes no register, no byte of memory and
calls no port. -/
def Obligations.RamMirrorsShareCells : Prop :=
  ∀ (a b : Word) (v : Byte) (s : State), a.toNat < 0x2000 → b.toNat < 0x2000 →
    (busRead b s).1 = s.ram.read (b &&& 0x07FF).toNat ∧
    (busRead b (busWrite a v s)).1 = (if a &&& 0x07FF = b &&& 0x07FF then v else (busRead b s).1) ∧
    (busRead b s).2 = { s with out := (busRead b s).2.out } ∧ (busRead b s).2.out.ports = s.out.ports

/-- R21: "`SP` wraps within page $01": every stack address lies in $0100 to $01FF, so a push then a pull gives the byte
and SP back, at every SP, wrap included. -/
def Obligations.StackStaysInPageOne : Prop :=
  ∀ (v : Byte) (s : State),
    (stackAddr s.sp).toNat = 0x100 + s.sp.toNat ∧
    (push v s).sp.toNat = (s.sp.toNat + 255) % 256 ∧ (push v s).out.bus = .write (stackAddr s.sp) v :: s.out.bus ∧
    (pull s).2.sp.toNat = (s.sp.toNat + 1) % 256 ∧
    (pull s).2.out.bus = .read (stackAddr (s.sp + 1)) (pull s).1 :: s.out.bus ∧
    (pull (push v s)).1 = v ∧ (pull (push v s)).2.sp = s.sp

/-- R63, R309 (b) (decisions D9, D26): the OAMDMA from any page. The step that started it makes 256 ordinary reads from
`page << 8` up, each followed by one write of its byte to PPU register 4, and pays 513 cycles more, or 514 when `cycles`
plus the instruction's count is odd; nothing else changes. A byte is what its address reads as: RAM, open bus, the
cartridge, or a device port's answer, one port call each; that those answers come from `portAnswers` is the model's
choice, log entry 4. -/
def Obligations.OamDmaCopiesAPage : Prop :=
  ∀ (n : Nat) (page : Byte) (s : State), s.dmaPage = some page →
    let t := endStep n s
    let count := n + 513 + (s.cycles + BitVec.ofNat 64 n).toNat % 2
    let addr (k : Nat) : Nat := page.toNat * 256 + k
    let device (k : Nat) : Bool := 0x2000 ≤ addr k && addr k < 0x4000 || 0x4015 ≤ addr k && addr k ≤ 0x4017
    let call (k : Nat) (b : Byte) : PortCall :=
      if addr k < 0x4000 then .ppuRead (BitVec.ofNat 3 (addr k % 8)) b
      else if addr k = 0x4015 then .apuRead b
      else if addr k = 0x4016 then .controller1Read b else .controller2Read b
    let asked := (List.range 256).filter device
    ∃ byte : Nat → Byte,
      t = { s with
        dmaPage := none
        cycles := s.cycles + BitVec.ofNat 64 count
        env := { s.env with
          portAnswers := s.env.portAnswers.drop asked.length
          portReads := s.env.portReads + asked.length }
        out := {
          bus := ((List.range 256).map (fun k => BusTxn.read (BitVec.ofNat 16 (addr k)) (byte k))).reverse ++ s.out.bus
          ports := ((List.range 256).flatMap (fun k =>
            (if device k then [call k (byte k)] else []) ++ [.ppuWrite 4 (byte k)])).reverse ++ s.out.ports
          returned := some count } } ∧
      (∀ k, k < 256 → addr k < 0x2000 → byte k = s.ram.read (addr k % 0x800)) ∧
      (∀ k, k < 256 → 0x4000 ≤ addr k → addr k < 0x4020 → device k = false → byte k = Config.openBusValue) ∧
      (∀ k, k < 256 → 0x4020 ≤ addr k → byte k = s.cart.cpuRead (BitVec.ofNat 16 (addr k))) ∧
      (asked.map byte).take s.env.portAnswers.length = s.env.portAnswers.take asked.length

/-! ## The cartridge -/

/-- R74: "Writes to PRG-ROM are ignored": under NROM a bus write to $8000-$FFFF changes no state and calls no port, and
every later read, of any address, returns what it would have returned. -/
def Obligations.NromIgnoresRomWrites : Prop :=
  ∀ (a b : Word) (v : Byte) (s : State), s.cart.board = .nrom → 0x8000 ≤ a.toNat →
    busWrite a v s = { s with out := (busWrite a v s).out } ∧ (busWrite a v s).out.ports = s.out.ports ∧
    (busRead b (busWrite a v s)).1 = (busRead b s).1

/-- R73, R74, R75 (decision D23 for absent PRG-RAM): NROM reads $8000-$FFFF straight from PRG-ROM, the upper half
mirroring the lower with one bank; a write there changes nothing; $6000-$7FFF is PRG-RAM or open bus. -/
def Obligations.NromMapsDirectly : Prop :=
  ∀ (c : Cart) (a b : Word) (v : Byte), c.board = .nrom →
    (0x8000 ≤ a.toNat → c.cpuRead a = c.prgRom.read ((a.toNat - 0x8000) % (c.config.prgBanks16k * 0x4000)) ∧
      c.cpuWrite a v = c) ∧
    (c.config.prgBanks16k = 1 → 0x8000 ≤ a.toNat → a.toNat < 0xC000 → c.cpuRead (a + 0x4000) = c.cpuRead a) ∧
    (0x6000 ≤ a.toNat → a.toNat < 0x8000 → c.config.hasPrgRam = true →
      (c.cpuWrite a v).cpuRead a = v ∧ (b ≠ a → (c.cpuWrite a v).cpuRead b = c.cpuRead b)) ∧
    (0x6000 ≤ a.toNat → a.toNat < 0x8000 → c.config.hasPrgRam = false →
      c.cpuRead a = Config.openBusValue ∧ c.cpuWrite a v = c) ∧
    (c.cpuWrite a v).mirroring = c.mirroring

/-- R80 (decision D18 for the place of the PRG mode): a write with bit 7 set to $8000-$FFFF resets the shift register and
its count and sets PRG mode 3; the other control fields, the bank registers, the mirroring and the buffers are unchanged. -/
def Obligations.Mmc1ResetWrite : Prop :=
  ∀ (c : Cart) (r : Mmc1) (a : Word) (v : Byte), c.board = .mmc1 r → 0x8000 ≤ a.toNat → v.getLsbD 7 = true →
    ∃ q, c.cpuWrite a v = { c with board := .mmc1 q } ∧ q.shift = 0 ∧ q.count = 0 ∧ q.control = r.control ||| 0x0C ∧
      q.prgMode = 3 ∧ q.chrMode = r.chrMode ∧ q.control.extractLsb' 0 2 = r.control.extractLsb' 0 2 ∧
      q.chrBank0 = r.chrBank0 ∧ q.chrBank1 = r.chrBank1 ∧ q.prgBank = r.prgBank

/-- R81 (decision D17): each of the first four data writes sets one bit of the shift register, bit `count`, and nothing
else: no register, no translation and no byte of memory changes. -/
def Obligations.Mmc1DataWriteOnlyShifts : Prop :=
  ∀ (c : Cart) (r : Mmc1) (a b : Word) (v : Byte), c.board = .mmc1 r → 0x8000 ≤ a.toNat → v.getLsbD 7 = false →
    r.count < 4 → r.shift.toNat < 2 ^ r.count →
    ∃ q, c.cpuWrite a v = { c with board := .mmc1 q } ∧
      q.shift.toNat = r.shift.toNat + (if v.getLsbD 0 then 2 ^ r.count else 0) ∧ q.count = r.count + 1 ∧
      q.control = r.control ∧ q.chrBank0 = r.chrBank0 ∧ q.chrBank1 = r.chrBank1 ∧ q.prgBank = r.prgBank ∧
      (c.cpuWrite a v).cpuRead b = c.cpuRead b ∧ (c.cpuWrite a v).ppuRead b = c.ppuRead b

/-- R82, R83, R84 (a), invariant V5 of spec/95_test_vectors.md (decision D17 for the bit order): five data writes with
bit 7 clear, to any addresses of $8000-$FFFF, commit the value of their five bits, the first lowest, to the register
bits 14-13 of the FIFTH address select, and to no other; a commit to control sets the mirroring it names. -/
def Obligations.Mmc1FiveWritesCommit : Prop :=
  ∀ (c : Cart) (r : Mmc1) (a1 a2 a3 a4 a5 : Word) (v1 v2 v3 v4 v5 : Byte),
    c.board = .mmc1 r → r.shift = 0 → r.count = 0 →
    (∀ a ∈ [a1, a2, a3, a4, a5], 0x8000 ≤ a.toNat) → (∀ v ∈ [v1, v2, v3, v4, v5], v.getLsbD 7 = false) →
    let d := ((((c.cpuWrite a1 v1).cpuWrite a2 v2).cpuWrite a3 v3).cpuWrite a4 v4).cpuWrite a5 v5
    let value : BitVec 5 := BitVec.ofNat 5 (v1.toNat % 2 + 2 * (v2.toNat % 2) + 4 * (v3.toNat % 2) +
      8 * (v4.toNat % 2) + 16 * (v5.toNat % 2))
    ∃ q, d.board = .mmc1 q ∧ q.shift = 0 ∧ q.count = 0 ∧
      q.control = (if a5.toNat < 0xA000 then value else r.control) ∧
      q.chrBank0 = (if 0xA000 ≤ a5.toNat ∧ a5.toNat < 0xC000 then value else r.chrBank0) ∧
      q.chrBank1 = (if 0xC000 ≤ a5.toNat ∧ a5.toNat < 0xE000 then value else r.chrBank1) ∧
      q.prgBank = (if 0xE000 ≤ a5.toNat then value else r.prgBank) ∧
      d.mirroring = (if a5.toNat < 0xA000 then
        (if value.toNat % 4 = 0 then .oneScreenLow else if value.toNat % 4 = 1 then .oneScreenHigh
          else if value.toNat % 4 = 2 then .vertical else .horizontal)
        else c.mirroring) ∧
      d.prgRom = c.prgRom ∧ d.chrRom = c.chrRom ∧ d.prgRam = c.prgRam ∧ d.chrRam = c.chrRam ∧ d.config = c.config

/-- R85, R86 (decision D19): the two PRG windows of MMC1 in each PRG mode, and PRG-RAM always accessible. -/
def Obligations.Mmc1TranslatesPrg : Prop :=
  ∀ (c : Cart) (r : Mmc1) (a : Word), c.board = .mmc1 r →
    let mode := r.control.toNat / 4 % 4
    let b := r.prgBank.toNat % 16
    let o := a.toNat % 0x4000
    let size := c.config.prgBanks16k * 0x4000
    let lower := 0x8000 ≤ a.toNat ∧ a.toNat < 0xC000
    let upper := 0xC000 ≤ a.toNat
    (lower → mode < 2 → c.cpuRead a = c.prgRom.read ((b / 2 * 2 * 0x4000 + o) % size)) ∧
    (upper → mode < 2 → c.cpuRead a = c.prgRom.read (((b / 2 * 2 + 1) * 0x4000 + o) % size)) ∧
    (lower → mode = 2 → c.cpuRead a = c.prgRom.read o) ∧
    (upper → mode = 2 → c.cpuRead a = c.prgRom.read ((b * 0x4000 + o) % size)) ∧
    (lower → mode = 3 → c.cpuRead a = c.prgRom.read ((b * 0x4000 + o) % size)) ∧
    (upper → mode = 3 → c.cpuRead a = c.prgRom.read ((c.config.prgBanks16k - 1) * 0x4000 + o)) ∧
    (0x6000 ≤ a.toNat → a.toNat < 0x8000 → c.cpuRead a = c.prgRam.read (a.toNat - 0x6000))

/-- R76, R77, R88, R89 (decisions D19, D23, D38): the PPU side. CHR-RAM takes a byte and gives it back at every address
that names the same index; CHR-ROM drops the write; the index is NROM's or the bank formula of each CHR mode. -/
def Obligations.PpuSideReadsItsBank : Prop :=
  ∀ (c : Cart) (a b : Word) (v : Byte),
    let size := if c.config.chrBanks8k = 0 then 0x2000 else c.config.chrBanks8k * 0x2000
    let low := a.toNat % 0x2000
    let index := match c.board with
      | .nrom => low % size
      | .mmc1 r =>
        if r.control.getLsbD 4 then
          (if low < 0x1000 then (r.chrBank0.toNat * 0x1000 + low) % size
            else (r.chrBank1.toNat * 0x1000 + low % 0x1000) % size)
        else (r.chrBank0.toNat / 2 * 0x2000 + low) % size
    c.chrIndex a = index ∧
    (c.config.chrBanks8k = 0 → c.ppuRead a = c.chrRam.read index ∧
      (c.ppuWrite a v).ppuRead b = if c.chrIndex b = index then v else c.ppuRead b) ∧
    (c.config.chrBanks8k ≠ 0 → c.ppuRead a = c.chrRom.read index ∧ c.ppuWrite a v = c)

/-! ## Whole-machine rules -/

/-- R45, R41, R32: "immutable ROM regions never mutate": no step changes PRG-ROM, CHR-ROM or the configuration, and none
changes CHR-RAM, which only the PPU side writes (R39). -/
def Obligations.StepNeverChangesRom : Prop :=
  ∀ s t : State, step s = .next t →
    t.cart.prgRom = s.cart.prgRom ∧ t.cart.chrRom = s.cart.chrRom ∧ t.cart.config = s.cart.config ∧
    t.cart.chrRam = s.cart.chrRam

/-- R87: "It is the only way any MMC1 register changes": a step with no write to $8000-$FFFF leaves the mapper registers
and the mirroring as they were, so every address translates as before. -/
def Obligations.MapperChangesOnlyByWrites : Prop :=
  ∀ s t : State, step s = .next t →
    (∀ a v, BusTxn.write a v ∈ t.out.bus → a.toNat < 0x8000) →
    t.cart.board = s.cart.board ∧ t.cart.mirroring = s.cart.mirroring

/-- R45 at power-up (log entries 1 and 2 chose the cartridge and the RAM of this state): the reset state meets the
invariant. -/
def Obligations.ResetMeetsInvariant : Prop := State.reset.inv = true

/-- R45: every step keeps the invariant: `P & $30 = $20`, `dma_page` empty, MMC1's count and shift in range, every memory
in canonical form, under NROM the image's mirroring. -/
def Obligations.StepKeepsInvariant : Prop :=
  ∀ s t : State, s.inv = true → step s = .next t → t.inv = true

/-- R45: every state that power-up from an accepted image, steps, resets and the environment's acts can reach meets the
invariant. -/
def Obligations.ReachableStatesMeetInvariant : Prop := ∀ s : State, Reachable s → s.inv = true

/-- R270 (decision D39): the trace line of an instruction step, for every machine: PC in four hexadecimal digits, the
instruction's bytes in two each, its three-letter name, A, X, Y, P and SP in two digits each and the cycles in decimal,
all before the instruction, one space between tokens. An interrupt entry, a BadOpcode and a halted machine give no
line. The source's own example is one of these lines. -/
def Obligations.TraceLineHasItsLayout : Prop :=
  let letters : Mnemonic → String := fun
      | .lda => "LDA" | .ldx => "LDX" | .ldy => "LDY" | .sta => "STA" | .stx => "STX" | .sty => "STY"
      | .tax => "TAX" | .txa => "TXA" | .tay => "TAY" | .tya => "TYA" | .tsx => "TSX" | .txs => "TXS"
      | .pha => "PHA" | .pla => "PLA" | .php => "PHP" | .plp => "PLP" | .and => "AND" | .ora => "ORA"
      | .eor => "EOR" | .bit => "BIT" | .adc => "ADC" | .sbc => "SBC" | .asl => "ASL" | .lsr => "LSR"
      | .rol => "ROL" | .ror => "ROR" | .cmp => "CMP" | .cpx => "CPX" | .cpy => "CPY" | .inc => "INC"
      | .dec => "DEC" | .inx => "INX" | .iny => "INY" | .dex => "DEX" | .dey => "DEY" | .bpl => "BPL"
      | .bmi => "BMI" | .bvc => "BVC" | .bvs => "BVS" | .bcc => "BCC" | .bcs => "BCS" | .bne => "BNE"
      | .beq => "BEQ" | .jmp => "JMP" | .jsr => "JSR" | .rts => "RTS" | .brk => "BRK" | .rti => "RTI"
      | .clc => "CLC" | .sec => "SEC" | .cli => "CLI" | .sei => "SEI" | .clv => "CLV" | .cld => "CLD"
      | .sed => "SED" | .nop => "NOP"
  let digit (n : Nat) : Char := "0123456789ABCDEF".toList.getD (n % 16) '0'
  let two (b : Byte) : List Char := [digit (b.toNat / 16), digit b.toNat]
  let four (w : Word) : List Char := [digit (w.toNat / 4096), digit (w.toNat / 256), digit (w.toNat / 16), digit w.toNat]
  (∀ (s u : State) (i : Instr) (rest : List Byte), boundary s = .run u → decode (readBytes 3 u).1 = .ok (i, rest) →
    traceLine s = some (four s.pc ++ (encode i).flatMap (fun b => ' ' :: two b) ++
      " ".toList ++ (letters i.row.mnemonic).toList ++ " A:".toList ++ two s.a ++ " X:".toList ++ two s.x ++
      " Y:".toList ++ two s.y ++ " P:".toList ++ two s.p ++ " SP:".toList ++ two s.sp ++
      " CYC:".toList ++ Nat.toDigits 10 s.cycles.toNat) ∧
    (s.pc = 0x8000 → s.a = 0 → s.x = 0 → s.y = 0 → s.p = 0x24 → s.sp = 0xFD → s.cycles = 7 → i = .ldaImm 0 →
      traceLine s = some "8000 A9 00 LDA A:00 X:00 Y:00 P:24 SP:FD CYC:7".toList)) ∧
  (∀ s : State, (nmiSeen s = true ∨ (irqLevel s = true ∧ flagI s.p = false)) → traceLine s = none) ∧
  (∀ (s : State) (f : Fault), step s = .fault f → traceLine s = none)
end

