-- ==== Sys2Proof/Laws/Flags.lean ====
section
/-! SUPPORT. What each flag computation leaves in each flag, and the bits of P it keeps. -/

namespace Sys2Proof.Machine

/-- Every bit of P after one is set. -/
theorem setBit_getLsbD (i j : Nat) (b : Bool) (p : Byte) (h : i < 8) :
    (setBit i b p).getLsbD j = if j = i then b else p.getLsbD j := by
  unfold setBit
  by_cases hj : j < 8
  · cases b <;> by_cases e : j = i <;>
      simp [e, hj, h] <;> omega
  · have e : j ≠ i := by omega
    simp [e, BitVec.getLsbD_of_ge _ _ (Nat.le_of_not_lt hj)]

/-- Setting a bit keeps every bit of a mask that leaves it out. -/
theorem setBit_and (i : Nat) (b : Bool) (p m : Byte) (h : i < 8) (hm : m.getLsbD i = false) :
    setBit i b p &&& m = p &&& m := by
  apply BitVec.eq_of_getLsbD_eq
  intro j _
  simp only [BitVec.getLsbD_and, setBit_getLsbD i j b p h]
  split
  next e => subst e; simp [hm]
  · rfl

/-! ## One flag set -/

@[simp] theorem flagN_setN (b : Bool) (p : Byte) : flagN (setN b p) = b := by
  rw [flagN, setN, setBit_getLsbD _ _ _ _ (by omega)]; rfl

@[simp] theorem flagV_setN (b : Bool) (p : Byte) : flagV (setN b p) = flagV p := by
  rw [flagV, setN, setBit_getLsbD _ _ _ _ (by omega)]; rfl

@[simp] theorem flagD_setN (b : Bool) (p : Byte) : flagD (setN b p) = flagD p := by
  rw [flagD, setN, setBit_getLsbD _ _ _ _ (by omega)]; rfl

@[simp] theorem flagI_setN (b : Bool) (p : Byte) : flagI (setN b p) = flagI p := by
  rw [flagI, setN, setBit_getLsbD _ _ _ _ (by omega)]; rfl

@[simp] theorem flagZ_setN (b : Bool) (p : Byte) : flagZ (setN b p) = flagZ p := by
  rw [flagZ, setN, setBit_getLsbD _ _ _ _ (by omega)]; rfl

@[simp] theorem flagC_setN (b : Bool) (p : Byte) : flagC (setN b p) = flagC p := by
  rw [flagC, setN, setBit_getLsbD _ _ _ _ (by omega)]; rfl

@[simp] theorem flagN_setV (b : Bool) (p : Byte) : flagN (setV b p) = flagN p := by
  rw [flagN, setV, setBit_getLsbD _ _ _ _ (by omega)]; rfl

@[simp] theorem flagV_setV (b : Bool) (p : Byte) : flagV (setV b p) = b := by
  rw [flagV, setV, setBit_getLsbD _ _ _ _ (by omega)]; rfl

@[simp] theorem flagD_setV (b : Bool) (p : Byte) : flagD (setV b p) = flagD p := by
  rw [flagD, setV, setBit_getLsbD _ _ _ _ (by omega)]; rfl

@[simp] theorem flagI_setV (b : Bool) (p : Byte) : flagI (setV b p) = flagI p := by
  rw [flagI, setV, setBit_getLsbD _ _ _ _ (by omega)]; rfl

@[simp] theorem flagZ_setV (b : Bool) (p : Byte) : flagZ (setV b p) = flagZ p := by
  rw [flagZ, setV, setBit_getLsbD _ _ _ _ (by omega)]; rfl

@[simp] theorem flagC_setV (b : Bool) (p : Byte) : flagC (setV b p) = flagC p := by
  rw [flagC, setV, setBit_getLsbD _ _ _ _ (by omega)]; rfl

@[simp] theorem flagN_setD (b : Bool) (p : Byte) : flagN (setD b p) = flagN p := by
  rw [flagN, setD, setBit_getLsbD _ _ _ _ (by omega)]; rfl

@[simp] theorem flagV_setD (b : Bool) (p : Byte) : flagV (setD b p) = flagV p := by
  rw [flagV, setD, setBit_getLsbD _ _ _ _ (by omega)]; rfl

@[simp] theorem flagD_setD (b : Bool) (p : Byte) : flagD (setD b p) = b := by
  rw [flagD, setD, setBit_getLsbD _ _ _ _ (by omega)]; rfl

@[simp] theorem flagI_setD (b : Bool) (p : Byte) : flagI (setD b p) = flagI p := by
  rw [flagI, setD, setBit_getLsbD _ _ _ _ (by omega)]; rfl

@[simp] theorem flagZ_setD (b : Bool) (p : Byte) : flagZ (setD b p) = flagZ p := by
  rw [flagZ, setD, setBit_getLsbD _ _ _ _ (by omega)]; rfl

@[simp] theorem flagC_setD (b : Bool) (p : Byte) : flagC (setD b p) = flagC p := by
  rw [flagC, setD, setBit_getLsbD _ _ _ _ (by omega)]; rfl

@[simp] theorem flagN_setI (b : Bool) (p : Byte) : flagN (setI b p) = flagN p := by
  rw [flagN, setI, setBit_getLsbD _ _ _ _ (by omega)]; rfl

@[simp] theorem flagV_setI (b : Bool) (p : Byte) : flagV (setI b p) = flagV p := by
  rw [flagV, setI, setBit_getLsbD _ _ _ _ (by omega)]; rfl

@[simp] theorem flagD_setI (b : Bool) (p : Byte) : flagD (setI b p) = flagD p := by
  rw [flagD, setI, setBit_getLsbD _ _ _ _ (by omega)]; rfl

@[simp] theorem flagI_setI (b : Bool) (p : Byte) : flagI (setI b p) = b := by
  rw [flagI, setI, setBit_getLsbD _ _ _ _ (by omega)]; rfl

@[simp] theorem flagZ_setI (b : Bool) (p : Byte) : flagZ (setI b p) = flagZ p := by
  rw [flagZ, setI, setBit_getLsbD _ _ _ _ (by omega)]; rfl

@[simp] theorem flagC_setI (b : Bool) (p : Byte) : flagC (setI b p) = flagC p := by
  rw [flagC, setI, setBit_getLsbD _ _ _ _ (by omega)]; rfl

@[simp] theorem flagN_setZ (b : Bool) (p : Byte) : flagN (setZ b p) = flagN p := by
  rw [flagN, setZ, setBit_getLsbD _ _ _ _ (by omega)]; rfl

@[simp] theorem flagV_setZ (b : Bool) (p : Byte) : flagV (setZ b p) = flagV p := by
  rw [flagV, setZ, setBit_getLsbD _ _ _ _ (by omega)]; rfl

@[simp] theorem flagD_setZ (b : Bool) (p : Byte) : flagD (setZ b p) = flagD p := by
  rw [flagD, setZ, setBit_getLsbD _ _ _ _ (by omega)]; rfl

@[simp] theorem flagI_setZ (b : Bool) (p : Byte) : flagI (setZ b p) = flagI p := by
  rw [flagI, setZ, setBit_getLsbD _ _ _ _ (by omega)]; rfl

@[simp] theorem flagZ_setZ (b : Bool) (p : Byte) : flagZ (setZ b p) = b := by
  rw [flagZ, setZ, setBit_getLsbD _ _ _ _ (by omega)]; rfl

@[simp] theorem flagC_setZ (b : Bool) (p : Byte) : flagC (setZ b p) = flagC p := by
  rw [flagC, setZ, setBit_getLsbD _ _ _ _ (by omega)]; rfl

@[simp] theorem flagN_setC (b : Bool) (p : Byte) : flagN (setC b p) = flagN p := by
  rw [flagN, setC, setBit_getLsbD _ _ _ _ (by omega)]; rfl

@[simp] theorem flagV_setC (b : Bool) (p : Byte) : flagV (setC b p) = flagV p := by
  rw [flagV, setC, setBit_getLsbD _ _ _ _ (by omega)]; rfl

@[simp] theorem flagD_setC (b : Bool) (p : Byte) : flagD (setC b p) = flagD p := by
  rw [flagD, setC, setBit_getLsbD _ _ _ _ (by omega)]; rfl

@[simp] theorem flagI_setC (b : Bool) (p : Byte) : flagI (setC b p) = flagI p := by
  rw [flagI, setC, setBit_getLsbD _ _ _ _ (by omega)]; rfl

@[simp] theorem flagZ_setC (b : Bool) (p : Byte) : flagZ (setC b p) = flagZ p := by
  rw [flagZ, setC, setBit_getLsbD _ _ _ _ (by omega)]; rfl

@[simp] theorem flagC_setC (b : Bool) (p : Byte) : flagC (setC b p) = b := by
  rw [flagC, setC, setBit_getLsbD _ _ _ _ (by omega)]; rfl

theorem setN_and (b : Bool) (p m : Byte) (h : m.getLsbD 7 = false) : setN b p &&& m = p &&& m :=
  setBit_and 7 b p m (by omega) h

theorem setV_and (b : Bool) (p m : Byte) (h : m.getLsbD 6 = false) : setV b p &&& m = p &&& m :=
  setBit_and 6 b p m (by omega) h

theorem setD_and (b : Bool) (p m : Byte) (h : m.getLsbD 3 = false) : setD b p &&& m = p &&& m :=
  setBit_and 3 b p m (by omega) h

theorem setI_and (b : Bool) (p m : Byte) (h : m.getLsbD 2 = false) : setI b p &&& m = p &&& m :=
  setBit_and 2 b p m (by omega) h

theorem setZ_and (b : Bool) (p m : Byte) (h : m.getLsbD 1 = false) : setZ b p &&& m = p &&& m :=
  setBit_and 1 b p m (by omega) h

theorem setC_and (b : Bool) (p m : Byte) (h : m.getLsbD 0 = false) : setC b p &&& m = p &&& m :=
  setBit_and 0 b p m (by omega) h

/-! ## Z and N of a result (spec/10_state.md R24) -/

@[simp] theorem flagZ_setZN (v p : Byte) : flagZ (setZN v p) = (v == 0) := by simp [setZN]

@[simp] theorem flagN_setZN (v p : Byte) : flagN (setZN v p) = v.getLsbD 7 := by simp [setZN]

@[simp] theorem flagC_setZN (v p : Byte) : flagC (setZN v p) = flagC p := by simp [setZN]

@[simp] theorem flagV_setZN (v p : Byte) : flagV (setZN v p) = flagV p := by simp [setZN]

@[simp] theorem flagI_setZN (v p : Byte) : flagI (setZN v p) = flagI p := by simp [setZN]

@[simp] theorem flagD_setZN (v p : Byte) : flagD (setZN v p) = flagD p := by simp [setZN]

theorem setZN_and (v p m : Byte) (hN : m.getLsbD 7 = false) (hZ : m.getLsbD 1 = false) :
    setZN v p &&& m = p &&& m := by
  rw [setZN, setN_and _ _ _ hN, setZ_and _ _ _ hZ]

/-! ## The computations of the instruction rules -/

theorem addFlags_and (a v p m : Byte) (hN : m.getLsbD 7 = false) (hV : m.getLsbD 6 = false)
    (hZ : m.getLsbD 1 = false) (hC : m.getLsbD 0 = false) : addFlags a v p &&& m = p &&& m := by
  rw [addFlags, setZN_and _ _ _ hN hZ, setV_and _ _ _ hV, setC_and _ _ _ hC]

theorem compareFlags_and (r v p m : Byte) (hN : m.getLsbD 7 = false) (hZ : m.getLsbD 1 = false)
    (hC : m.getLsbD 0 = false) : compareFlags r v p &&& m = p &&& m := by
  rw [compareFlags, setN_and _ _ _ hN, setZ_and _ _ _ hZ, setC_and _ _ _ hC]

theorem bitFlags_and (a v p m : Byte) (hN : m.getLsbD 7 = false) (hV : m.getLsbD 6 = false)
    (hZ : m.getLsbD 1 = false) : bitFlags a v p &&& m = p &&& m := by
  rw [bitFlags, setZ_and _ _ _ hZ, setV_and _ _ _ hV, setN_and _ _ _ hN]

theorem shiftFlags_and (out : Bool) (r p m : Byte) (hN : m.getLsbD 7 = false) (hZ : m.getLsbD 1 = false)
    (hC : m.getLsbD 0 = false) : shiftFlags out r p &&& m = p &&& m := by
  rw [shiftFlags, setZN_and _ _ _ hN hZ, setC_and _ _ _ hC]

@[simp] theorem flagC_shiftFlags (out : Bool) (r p : Byte) : flagC (shiftFlags out r p) = out := by simp [shiftFlags]

@[simp] theorem flagZ_shiftFlags (out : Bool) (r p : Byte) : flagZ (shiftFlags out r p) = (r == 0) := by
  simp [shiftFlags]

@[simp] theorem flagN_shiftFlags (out : Bool) (r p : Byte) : flagN (shiftFlags out r p) = r.getLsbD 7 := by
  simp [shiftFlags]

@[simp] theorem flagC_compareFlags (r v p : Byte) : flagC (compareFlags r v p) = decide (v ≤ r) := by
  simp [compareFlags]

@[simp] theorem flagZ_compareFlags (r v p : Byte) : flagZ (compareFlags r v p) = (r == v) := by simp [compareFlags]

@[simp] theorem flagN_compareFlags (r v p : Byte) : flagN (compareFlags r v p) = (r - v).getLsbD 7 := by
  simp [compareFlags]

@[simp] theorem flagN_bitFlags (a v p : Byte) : flagN (bitFlags a v p) = v.getLsbD 7 := by simp [bitFlags]

@[simp] theorem flagV_bitFlags (a v p : Byte) : flagV (bitFlags a v p) = v.getLsbD 6 := by simp [bitFlags]

@[simp] theorem flagZ_bitFlags (a v p : Byte) : flagZ (bitFlags a v p) = ((a &&& v) == 0) := by simp [bitFlags]

@[simp] theorem flagC_addFlags (a v p : Byte) : flagC (addFlags a v p) = addCarry a v (flagC p) := by simp [addFlags]

@[simp] theorem flagV_addFlags (a v p : Byte) : flagV (addFlags a v p) = addOverflow a v (flagC p) := by
  simp [addFlags]

@[simp] theorem flagZ_addFlags (a v p : Byte) : flagZ (addFlags a v p) = (addResult a v (flagC p) == 0) := by
  simp [addFlags]

@[simp] theorem flagN_addFlags (a v p : Byte) : flagN (addFlags a v p) = (addResult a v (flagC p)).getLsbD 7 := by
  simp [addFlags]

/-- What a pulled status holds in bits 5 and 4. -/
theorem pulledStatus_and (v : Byte) : pulledStatus v &&& 0x30 = 0x20 := by
  revert v; decide

/-- A pulled pushed status is the status pushed, where bits 5 and 4 are as they must be. -/
theorem pulledStatus_pushedStatus (b : Bool) (p : Byte) (h : p &&& 0x30 = 0x20) :
    pulledStatus (pushedStatus b p) = p := by
  revert b p; decide

end Sys2Proof.Machine
end

