-- ==== Sys2Proof/Laws/Arithmetic.lean ====
section
/-! SUPPORT. AddCore and the shifts as numbers. -/

namespace Sys2Proof.Machine

theorem addResult_toNat (a m : Byte) (c : Bool) : (addResult a m c).toNat = (a.toNat + m.toNat + c.toNat) % 256 := by
  cases c <;> simp [addResult, addSum]

theorem addCarry_eq (a m : Byte) (c : Bool) : addCarry a m c = decide (255 < a.toNat + m.toNat + c.toNat) := by
  have ha := a.isLt
  have hm := m.isLt
  have hc := Bool.toNat_le c
  have e : (addSum a m c).toNat = a.toNat + m.toNat + c.toNat := by cases c <;> simp [addSum] <;> omega
  unfold addCarry
  rw [BitVec.getLsbD, e, Nat.testBit_eq_decide_div_mod_eq]
  by_cases h : 255 < a.toNat + m.toNat + c.toNat <;> simp [h] <;> omega

/-- The overflow formula in signs: both operands of one sign, the result of the other. -/
theorem addOverflow_eq (a m : Byte) (c : Bool) : addOverflow a m c =
    ((!(a.msb ^^ m.msb)) && (a.msb ^^ (addResult a m c).msb)) := by
  unfold addOverflow
  generalize addResult a m c = r
  have top : ∀ x : Byte, ((x &&& 0x80) != 0) = x.msb := by decide
  rw [top]; simp [BitVec.msb_and, BitVec.msb_not, BitVec.msb_xor]

theorem msb_eq (x : Byte) : x.msb = decide (128 ≤ x.toNat) := by revert x; decide

theorem shiftLeft_ofNat (v : Byte) : v <<< 1 = BitVec.ofNat 8 (2 * v.toNat) := by revert v; decide

theorem shiftRight_ofNat (v : Byte) : v >>> 1 = BitVec.ofNat 8 (v.toNat / 2) := by revert v; decide

theorem rolResult_ofNat (v p : Byte) : rolResult v p = BitVec.ofNat 8 (2 * v.toNat + (flagC p).toNat) := by
  unfold rolResult
  generalize flagC p = b
  revert b v; decide

theorem rorResult_ofNat (v p : Byte) : rorResult v p = BitVec.ofNat 8 (v.toNat / 2 + 128 * (flagC p).toNat) := by
  unfold rorResult
  generalize flagC p = b
  revert b v; decide

end Sys2Proof.Machine
end

