-- ==== Sys2Proof/Laws/Arms.lean ====
section
/-! SUPPORT. Each arm of `exec` down to the shared shape its meaning is written over. -/

namespace Sys2Proof.Machine

@[simp] theorem exec_ldaImm (v : Byte) (s : State) :
    exec (.ldaImm v) s = readInstr (.immediate v) 2 false ldaEffect s := rfl

@[simp] theorem exec_ldaZp (z : Byte) (s : State) :
    exec (.ldaZp z) s = readInstr (.zeroPage z) 3 false ldaEffect s := rfl

@[simp] theorem exec_ldaZpx (z : Byte) (s : State) :
    exec (.ldaZpx z) s = readInstr (.zeroPageX z) 4 false ldaEffect s := rfl

@[simp] theorem exec_ldaAbs (a : Word) (s : State) :
    exec (.ldaAbs a) s = readInstr (.absolute a) 4 false ldaEffect s := rfl

@[simp] theorem exec_ldaAbx (a : Word) (s : State) :
    exec (.ldaAbx a) s = readInstr (.absoluteX a) 4 true ldaEffect s := rfl

@[simp] theorem exec_ldaAby (a : Word) (s : State) :
    exec (.ldaAby a) s = readInstr (.absoluteY a) 4 true ldaEffect s := rfl

@[simp] theorem exec_ldaIzx (z : Byte) (s : State) :
    exec (.ldaIzx z) s = readInstr (.indirectX z) 6 false ldaEffect s := rfl

@[simp] theorem exec_ldaIzy (z : Byte) (s : State) :
    exec (.ldaIzy z) s = readInstr (.indirectY z) 5 true ldaEffect s := rfl

@[simp] theorem exec_ldxImm (v : Byte) (s : State) :
    exec (.ldxImm v) s = readInstr (.immediate v) 2 false ldxEffect s := rfl

@[simp] theorem exec_ldxZp (z : Byte) (s : State) :
    exec (.ldxZp z) s = readInstr (.zeroPage z) 3 false ldxEffect s := rfl

@[simp] theorem exec_ldxZpy (z : Byte) (s : State) :
    exec (.ldxZpy z) s = readInstr (.zeroPageY z) 4 false ldxEffect s := rfl

@[simp] theorem exec_ldxAbs (a : Word) (s : State) :
    exec (.ldxAbs a) s = readInstr (.absolute a) 4 false ldxEffect s := rfl

@[simp] theorem exec_ldxAby (a : Word) (s : State) :
    exec (.ldxAby a) s = readInstr (.absoluteY a) 4 true ldxEffect s := rfl

@[simp] theorem exec_ldyImm (v : Byte) (s : State) :
    exec (.ldyImm v) s = readInstr (.immediate v) 2 false ldyEffect s := rfl

@[simp] theorem exec_ldyZp (z : Byte) (s : State) :
    exec (.ldyZp z) s = readInstr (.zeroPage z) 3 false ldyEffect s := rfl

@[simp] theorem exec_ldyZpx (z : Byte) (s : State) :
    exec (.ldyZpx z) s = readInstr (.zeroPageX z) 4 false ldyEffect s := rfl

@[simp] theorem exec_ldyAbs (a : Word) (s : State) :
    exec (.ldyAbs a) s = readInstr (.absolute a) 4 false ldyEffect s := rfl

@[simp] theorem exec_ldyAbx (a : Word) (s : State) :
    exec (.ldyAbx a) s = readInstr (.absoluteX a) 4 true ldyEffect s := rfl

@[simp] theorem exec_staZp (z : Byte) (s : State) :
    exec (.staZp z) s = storeInstr (.zeroPage z) 3 State.a s := rfl

@[simp] theorem exec_staZpx (z : Byte) (s : State) :
    exec (.staZpx z) s = storeInstr (.zeroPageX z) 4 State.a s := rfl

@[simp] theorem exec_staAbs (a : Word) (s : State) :
    exec (.staAbs a) s = storeInstr (.absolute a) 4 State.a s := rfl

@[simp] theorem exec_staAbx (a : Word) (s : State) :
    exec (.staAbx a) s = storeInstr (.absoluteX a) 5 State.a s := rfl

@[simp] theorem exec_staAby (a : Word) (s : State) :
    exec (.staAby a) s = storeInstr (.absoluteY a) 5 State.a s := rfl

@[simp] theorem exec_staIzx (z : Byte) (s : State) :
    exec (.staIzx z) s = storeInstr (.indirectX z) 6 State.a s := rfl

@[simp] theorem exec_staIzy (z : Byte) (s : State) :
    exec (.staIzy z) s = storeInstr (.indirectY z) 6 State.a s := rfl

@[simp] theorem exec_stxZp (z : Byte) (s : State) :
    exec (.stxZp z) s = storeInstr (.zeroPage z) 3 State.x s := rfl

@[simp] theorem exec_stxZpy (z : Byte) (s : State) :
    exec (.stxZpy z) s = storeInstr (.zeroPageY z) 4 State.x s := rfl

@[simp] theorem exec_stxAbs (a : Word) (s : State) :
    exec (.stxAbs a) s = storeInstr (.absolute a) 4 State.x s := rfl

@[simp] theorem exec_styZp (z : Byte) (s : State) :
    exec (.styZp z) s = storeInstr (.zeroPage z) 3 State.y s := rfl

@[simp] theorem exec_styZpx (z : Byte) (s : State) :
    exec (.styZpx z) s = storeInstr (.zeroPageX z) 4 State.y s := rfl

@[simp] theorem exec_styAbs (a : Word) (s : State) :
    exec (.styAbs a) s = storeInstr (.absolute a) 4 State.y s := rfl

@[simp] theorem exec_tax (s : State) :
    exec .tax s = impliedInstr 2 taxEffect s := rfl

@[simp] theorem exec_txa (s : State) :
    exec .txa s = impliedInstr 2 txaEffect s := rfl

@[simp] theorem exec_tay (s : State) :
    exec .tay s = impliedInstr 2 tayEffect s := rfl

@[simp] theorem exec_tya (s : State) :
    exec .tya s = impliedInstr 2 tyaEffect s := rfl

@[simp] theorem exec_tsx (s : State) :
    exec .tsx s = impliedInstr 2 tsxEffect s := rfl

@[simp] theorem exec_txs (s : State) :
    exec .txs s = impliedInstr 2 txsEffect s := rfl

@[simp] theorem exec_pha (s : State) :
    exec .pha s = impliedInstr 3 phaEffect s := rfl

@[simp] theorem exec_pla (s : State) :
    exec .pla s = impliedInstr 4 plaEffect s := rfl

@[simp] theorem exec_php (s : State) :
    exec .php s = impliedInstr 3 phpEffect s := rfl

@[simp] theorem exec_plp (s : State) :
    exec .plp s = impliedInstr 4 plpEffect s := rfl

@[simp] theorem exec_andImm (v : Byte) (s : State) :
    exec (.andImm v) s = readInstr (.immediate v) 2 false andEffect s := rfl

@[simp] theorem exec_andZp (z : Byte) (s : State) :
    exec (.andZp z) s = readInstr (.zeroPage z) 3 false andEffect s := rfl

@[simp] theorem exec_andZpx (z : Byte) (s : State) :
    exec (.andZpx z) s = readInstr (.zeroPageX z) 4 false andEffect s := rfl

@[simp] theorem exec_andAbs (a : Word) (s : State) :
    exec (.andAbs a) s = readInstr (.absolute a) 4 false andEffect s := rfl

@[simp] theorem exec_andAbx (a : Word) (s : State) :
    exec (.andAbx a) s = readInstr (.absoluteX a) 4 true andEffect s := rfl

@[simp] theorem exec_andAby (a : Word) (s : State) :
    exec (.andAby a) s = readInstr (.absoluteY a) 4 true andEffect s := rfl

@[simp] theorem exec_andIzx (z : Byte) (s : State) :
    exec (.andIzx z) s = readInstr (.indirectX z) 6 false andEffect s := rfl

@[simp] theorem exec_andIzy (z : Byte) (s : State) :
    exec (.andIzy z) s = readInstr (.indirectY z) 5 true andEffect s := rfl

@[simp] theorem exec_oraImm (v : Byte) (s : State) :
    exec (.oraImm v) s = readInstr (.immediate v) 2 false oraEffect s := rfl

@[simp] theorem exec_oraZp (z : Byte) (s : State) :
    exec (.oraZp z) s = readInstr (.zeroPage z) 3 false oraEffect s := rfl

@[simp] theorem exec_oraZpx (z : Byte) (s : State) :
    exec (.oraZpx z) s = readInstr (.zeroPageX z) 4 false oraEffect s := rfl

@[simp] theorem exec_oraAbs (a : Word) (s : State) :
    exec (.oraAbs a) s = readInstr (.absolute a) 4 false oraEffect s := rfl

@[simp] theorem exec_oraAbx (a : Word) (s : State) :
    exec (.oraAbx a) s = readInstr (.absoluteX a) 4 true oraEffect s := rfl

@[simp] theorem exec_oraAby (a : Word) (s : State) :
    exec (.oraAby a) s = readInstr (.absoluteY a) 4 true oraEffect s := rfl

@[simp] theorem exec_oraIzx (z : Byte) (s : State) :
    exec (.oraIzx z) s = readInstr (.indirectX z) 6 false oraEffect s := rfl

@[simp] theorem exec_oraIzy (z : Byte) (s : State) :
    exec (.oraIzy z) s = readInstr (.indirectY z) 5 true oraEffect s := rfl

@[simp] theorem exec_eorImm (v : Byte) (s : State) :
    exec (.eorImm v) s = readInstr (.immediate v) 2 false eorEffect s := rfl

@[simp] theorem exec_eorZp (z : Byte) (s : State) :
    exec (.eorZp z) s = readInstr (.zeroPage z) 3 false eorEffect s := rfl

@[simp] theorem exec_eorZpx (z : Byte) (s : State) :
    exec (.eorZpx z) s = readInstr (.zeroPageX z) 4 false eorEffect s := rfl

@[simp] theorem exec_eorAbs (a : Word) (s : State) :
    exec (.eorAbs a) s = readInstr (.absolute a) 4 false eorEffect s := rfl

@[simp] theorem exec_eorAbx (a : Word) (s : State) :
    exec (.eorAbx a) s = readInstr (.absoluteX a) 4 true eorEffect s := rfl

@[simp] theorem exec_eorAby (a : Word) (s : State) :
    exec (.eorAby a) s = readInstr (.absoluteY a) 4 true eorEffect s := rfl

@[simp] theorem exec_eorIzx (z : Byte) (s : State) :
    exec (.eorIzx z) s = readInstr (.indirectX z) 6 false eorEffect s := rfl

@[simp] theorem exec_eorIzy (z : Byte) (s : State) :
    exec (.eorIzy z) s = readInstr (.indirectY z) 5 true eorEffect s := rfl

@[simp] theorem exec_bitZp (z : Byte) (s : State) :
    exec (.bitZp z) s = readInstr (.zeroPage z) 3 false bitEffect s := rfl

@[simp] theorem exec_bitAbs (a : Word) (s : State) :
    exec (.bitAbs a) s = readInstr (.absolute a) 4 false bitEffect s := rfl

@[simp] theorem exec_adcImm (v : Byte) (s : State) :
    exec (.adcImm v) s = readInstr (.immediate v) 2 false addCore s := rfl

@[simp] theorem exec_adcZp (z : Byte) (s : State) :
    exec (.adcZp z) s = readInstr (.zeroPage z) 3 false addCore s := rfl

@[simp] theorem exec_adcZpx (z : Byte) (s : State) :
    exec (.adcZpx z) s = readInstr (.zeroPageX z) 4 false addCore s := rfl

@[simp] theorem exec_adcAbs (a : Word) (s : State) :
    exec (.adcAbs a) s = readInstr (.absolute a) 4 false addCore s := rfl

@[simp] theorem exec_adcAbx (a : Word) (s : State) :
    exec (.adcAbx a) s = readInstr (.absoluteX a) 4 true addCore s := rfl

@[simp] theorem exec_adcAby (a : Word) (s : State) :
    exec (.adcAby a) s = readInstr (.absoluteY a) 4 true addCore s := rfl

@[simp] theorem exec_adcIzx (z : Byte) (s : State) :
    exec (.adcIzx z) s = readInstr (.indirectX z) 6 false addCore s := rfl

@[simp] theorem exec_adcIzy (z : Byte) (s : State) :
    exec (.adcIzy z) s = readInstr (.indirectY z) 5 true addCore s := rfl

@[simp] theorem exec_sbcImm (v : Byte) (s : State) :
    exec (.sbcImm v) s = readInstr (.immediate v) 2 false sbcEffect s := rfl

@[simp] theorem exec_sbcZp (z : Byte) (s : State) :
    exec (.sbcZp z) s = readInstr (.zeroPage z) 3 false sbcEffect s := rfl

@[simp] theorem exec_sbcZpx (z : Byte) (s : State) :
    exec (.sbcZpx z) s = readInstr (.zeroPageX z) 4 false sbcEffect s := rfl

@[simp] theorem exec_sbcAbs (a : Word) (s : State) :
    exec (.sbcAbs a) s = readInstr (.absolute a) 4 false sbcEffect s := rfl

@[simp] theorem exec_sbcAbx (a : Word) (s : State) :
    exec (.sbcAbx a) s = readInstr (.absoluteX a) 4 true sbcEffect s := rfl

@[simp] theorem exec_sbcAby (a : Word) (s : State) :
    exec (.sbcAby a) s = readInstr (.absoluteY a) 4 true sbcEffect s := rfl

@[simp] theorem exec_sbcIzx (z : Byte) (s : State) :
    exec (.sbcIzx z) s = readInstr (.indirectX z) 6 false sbcEffect s := rfl

@[simp] theorem exec_sbcIzy (z : Byte) (s : State) :
    exec (.sbcIzy z) s = readInstr (.indirectY z) 5 true sbcEffect s := rfl

@[simp] theorem exec_aslAcc (s : State) :
    exec .aslAcc s = accInstr aslOp s := rfl

@[simp] theorem exec_aslZp (z : Byte) (s : State) :
    exec (.aslZp z) s = rmwInstr (.zeroPage z) 5 aslOp s := rfl

@[simp] theorem exec_aslZpx (z : Byte) (s : State) :
    exec (.aslZpx z) s = rmwInstr (.zeroPageX z) 6 aslOp s := rfl

@[simp] theorem exec_aslAbs (a : Word) (s : State) :
    exec (.aslAbs a) s = rmwInstr (.absolute a) 6 aslOp s := rfl

@[simp] theorem exec_aslAbx (a : Word) (s : State) :
    exec (.aslAbx a) s = rmwInstr (.absoluteX a) 7 aslOp s := rfl

@[simp] theorem exec_lsrAcc (s : State) :
    exec .lsrAcc s = accInstr lsrOp s := rfl

@[simp] theorem exec_lsrZp (z : Byte) (s : State) :
    exec (.lsrZp z) s = rmwInstr (.zeroPage z) 5 lsrOp s := rfl

@[simp] theorem exec_lsrZpx (z : Byte) (s : State) :
    exec (.lsrZpx z) s = rmwInstr (.zeroPageX z) 6 lsrOp s := rfl

@[simp] theorem exec_lsrAbs (a : Word) (s : State) :
    exec (.lsrAbs a) s = rmwInstr (.absolute a) 6 lsrOp s := rfl

@[simp] theorem exec_lsrAbx (a : Word) (s : State) :
    exec (.lsrAbx a) s = rmwInstr (.absoluteX a) 7 lsrOp s := rfl

@[simp] theorem exec_rolAcc (s : State) :
    exec .rolAcc s = accInstr rolOp s := rfl

@[simp] theorem exec_rolZp (z : Byte) (s : State) :
    exec (.rolZp z) s = rmwInstr (.zeroPage z) 5 rolOp s := rfl

@[simp] theorem exec_rolZpx (z : Byte) (s : State) :
    exec (.rolZpx z) s = rmwInstr (.zeroPageX z) 6 rolOp s := rfl

@[simp] theorem exec_rolAbs (a : Word) (s : State) :
    exec (.rolAbs a) s = rmwInstr (.absolute a) 6 rolOp s := rfl

@[simp] theorem exec_rolAbx (a : Word) (s : State) :
    exec (.rolAbx a) s = rmwInstr (.absoluteX a) 7 rolOp s := rfl

@[simp] theorem exec_rorAcc (s : State) :
    exec .rorAcc s = accInstr rorOp s := rfl

@[simp] theorem exec_rorZp (z : Byte) (s : State) :
    exec (.rorZp z) s = rmwInstr (.zeroPage z) 5 rorOp s := rfl

@[simp] theorem exec_rorZpx (z : Byte) (s : State) :
    exec (.rorZpx z) s = rmwInstr (.zeroPageX z) 6 rorOp s := rfl

@[simp] theorem exec_rorAbs (a : Word) (s : State) :
    exec (.rorAbs a) s = rmwInstr (.absolute a) 6 rorOp s := rfl

@[simp] theorem exec_rorAbx (a : Word) (s : State) :
    exec (.rorAbx a) s = rmwInstr (.absoluteX a) 7 rorOp s := rfl

@[simp] theorem exec_cmpImm (v : Byte) (s : State) :
    exec (.cmpImm v) s = readInstr (.immediate v) 2 false cmpEffect s := rfl

@[simp] theorem exec_cmpZp (z : Byte) (s : State) :
    exec (.cmpZp z) s = readInstr (.zeroPage z) 3 false cmpEffect s := rfl

@[simp] theorem exec_cmpZpx (z : Byte) (s : State) :
    exec (.cmpZpx z) s = readInstr (.zeroPageX z) 4 false cmpEffect s := rfl

@[simp] theorem exec_cmpAbs (a : Word) (s : State) :
    exec (.cmpAbs a) s = readInstr (.absolute a) 4 false cmpEffect s := rfl

@[simp] theorem exec_cmpAbx (a : Word) (s : State) :
    exec (.cmpAbx a) s = readInstr (.absoluteX a) 4 true cmpEffect s := rfl

@[simp] theorem exec_cmpAby (a : Word) (s : State) :
    exec (.cmpAby a) s = readInstr (.absoluteY a) 4 true cmpEffect s := rfl

@[simp] theorem exec_cmpIzx (z : Byte) (s : State) :
    exec (.cmpIzx z) s = readInstr (.indirectX z) 6 false cmpEffect s := rfl

@[simp] theorem exec_cmpIzy (z : Byte) (s : State) :
    exec (.cmpIzy z) s = readInstr (.indirectY z) 5 true cmpEffect s := rfl

@[simp] theorem exec_cpxImm (v : Byte) (s : State) :
    exec (.cpxImm v) s = readInstr (.immediate v) 2 false cpxEffect s := rfl

@[simp] theorem exec_cpxZp (z : Byte) (s : State) :
    exec (.cpxZp z) s = readInstr (.zeroPage z) 3 false cpxEffect s := rfl

@[simp] theorem exec_cpxAbs (a : Word) (s : State) :
    exec (.cpxAbs a) s = readInstr (.absolute a) 4 false cpxEffect s := rfl

@[simp] theorem exec_cpyImm (v : Byte) (s : State) :
    exec (.cpyImm v) s = readInstr (.immediate v) 2 false cpyEffect s := rfl

@[simp] theorem exec_cpyZp (z : Byte) (s : State) :
    exec (.cpyZp z) s = readInstr (.zeroPage z) 3 false cpyEffect s := rfl

@[simp] theorem exec_cpyAbs (a : Word) (s : State) :
    exec (.cpyAbs a) s = readInstr (.absolute a) 4 false cpyEffect s := rfl

@[simp] theorem exec_incZp (z : Byte) (s : State) :
    exec (.incZp z) s = rmwInstr (.zeroPage z) 5 incOp s := rfl

@[simp] theorem exec_incZpx (z : Byte) (s : State) :
    exec (.incZpx z) s = rmwInstr (.zeroPageX z) 6 incOp s := rfl

@[simp] theorem exec_incAbs (a : Word) (s : State) :
    exec (.incAbs a) s = rmwInstr (.absolute a) 6 incOp s := rfl

@[simp] theorem exec_incAbx (a : Word) (s : State) :
    exec (.incAbx a) s = rmwInstr (.absoluteX a) 7 incOp s := rfl

@[simp] theorem exec_decZp (z : Byte) (s : State) :
    exec (.decZp z) s = rmwInstr (.zeroPage z) 5 decOp s := rfl

@[simp] theorem exec_decZpx (z : Byte) (s : State) :
    exec (.decZpx z) s = rmwInstr (.zeroPageX z) 6 decOp s := rfl

@[simp] theorem exec_decAbs (a : Word) (s : State) :
    exec (.decAbs a) s = rmwInstr (.absolute a) 6 decOp s := rfl

@[simp] theorem exec_decAbx (a : Word) (s : State) :
    exec (.decAbx a) s = rmwInstr (.absoluteX a) 7 decOp s := rfl

@[simp] theorem exec_inx (s : State) :
    exec .inx s = impliedInstr 2 inxEffect s := rfl

@[simp] theorem exec_iny (s : State) :
    exec .iny s = impliedInstr 2 inyEffect s := rfl

@[simp] theorem exec_dex (s : State) :
    exec .dex s = impliedInstr 2 dexEffect s := rfl

@[simp] theorem exec_dey (s : State) :
    exec .dey s = impliedInstr 2 deyEffect s := rfl

@[simp] theorem exec_bpl (d : Byte) (s : State) :
    exec (.bpl d) s = branchInstr (fun p => !flagN p) d s := rfl

@[simp] theorem exec_bmi (d : Byte) (s : State) :
    exec (.bmi d) s = branchInstr flagN d s := rfl

@[simp] theorem exec_bvc (d : Byte) (s : State) :
    exec (.bvc d) s = branchInstr (fun p => !flagV p) d s := rfl

@[simp] theorem exec_bvs (d : Byte) (s : State) :
    exec (.bvs d) s = branchInstr flagV d s := rfl

@[simp] theorem exec_bcc (d : Byte) (s : State) :
    exec (.bcc d) s = branchInstr (fun p => !flagC p) d s := rfl

@[simp] theorem exec_bcs (d : Byte) (s : State) :
    exec (.bcs d) s = branchInstr flagC d s := rfl

@[simp] theorem exec_bne (d : Byte) (s : State) :
    exec (.bne d) s = branchInstr (fun p => !flagZ p) d s := rfl

@[simp] theorem exec_beq (d : Byte) (s : State) :
    exec (.beq d) s = branchInstr flagZ d s := rfl

@[simp] theorem exec_jmpAbs (a : Word) (s : State) :
    exec (.jmpAbs a) s = impliedInstr 3 (State.setPC a) s := rfl

@[simp] theorem exec_jmpInd (a : Word) (s : State) :
    exec (.jmpInd a) s = .next (endStep 5 ((effective (.indirect a) s).2.setPC (effective (.indirect a) s).1.addr)) := rfl

@[simp] theorem exec_jsr (a : Word) (s : State) :
    exec (.jsr a) s = impliedInstr 6 (jsrEffect a) s := rfl

@[simp] theorem exec_rts (s : State) :
    exec .rts s = impliedInstr 6 rtsEffect s := rfl

@[simp] theorem exec_brk (s : State) :
    exec .brk s = impliedInstr 7 brkEffect s := rfl

@[simp] theorem exec_rti (s : State) :
    exec .rti s = impliedInstr 6 returnFromInterrupt s := rfl

@[simp] theorem exec_clc (s : State) :
    exec .clc s = impliedInstr 2 (fun s => s.setP (setC false s.p)) s := rfl

@[simp] theorem exec_sec (s : State) :
    exec .sec s = impliedInstr 2 (fun s => s.setP (setC true s.p)) s := rfl

@[simp] theorem exec_cli (s : State) :
    exec .cli s = impliedInstr 2 (fun s => s.setP (setI false s.p)) s := rfl

@[simp] theorem exec_sei (s : State) :
    exec .sei s = impliedInstr 2 (fun s => s.setP (setI true s.p)) s := rfl

@[simp] theorem exec_clv (s : State) :
    exec .clv s = impliedInstr 2 (fun s => s.setP (setV false s.p)) s := rfl

@[simp] theorem exec_cld (s : State) :
    exec .cld s = impliedInstr 2 (fun s => s.setP (setD false s.p)) s := rfl

@[simp] theorem exec_sed (s : State) :
    exec .sed s = impliedInstr 2 (fun s => s.setP (setD true s.p)) s := rfl

@[simp] theorem exec_nop (s : State) :
    exec .nop s = impliedInstr 2 id s := rfl

end Sys2Proof.Machine
end

