-- ==== Sys2Proof/Laws/ByOperand.lean ====
section
/-! SUPPORT. The instructions with an operand, by mnemonic: whatever the mode, `exec` is the shared shape over the operand
`Operand.of` assembles and the cycles and page penalty of the instruction's row. -/

namespace Sys2Proof.Machine

theorem wordOf_bytes (a : Word) : wordOf (hiByte a) (loByte a) = a := by
  apply BitVec.eq_of_toNat_eq
  have h := a.isLt
  simp only [wordOf, hiByte, loByte, BitVec.toNat_append, BitVec.toNat_setWidth, BitVec.extractLsb'_toNat,
    Nat.shiftLeft_eq, Nat.shiftRight_eq_div_pow]
  rw [← Nat.shiftLeft_eq, ← Nat.shiftLeft_add_eq_or_of_lt (by omega), Nat.shiftLeft_eq]
  omega

/-- The bytes of a word, most significant first. -/
theorem hiByte_wordOf (h l : Byte) : hiByte (wordOf h l) = h := by
  apply BitVec.eq_of_getLsbD_eq
  intro i hi
  simp only [hiByte, wordOf, BitVec.getLsbD_extractLsb', hi, decide_true, Bool.true_and, BitVec.getLsbD_append]
  simp

theorem loByte_wordOf (h l : Byte) : loByte (wordOf h l) = l := by
  apply BitVec.eq_of_getLsbD_eq
  intro i hi
  simp only [loByte, wordOf, BitVec.getLsbD_setWidth, hi, decide_true, Bool.true_and, BitVec.getLsbD_append, if_true]

/-- The shape of each mnemonic that takes an operand; `exec` itself for the others. -/
def shapeOf (i : Instr) (o : Operand) (s : State) : Host.Outcome State Fault Refusal :=
  match i.row.mnemonic with
  | .lda => readInstr o i.row.cycles i.row.pagePenalty ldaEffect s
  | .ldx => readInstr o i.row.cycles i.row.pagePenalty ldxEffect s
  | .ldy => readInstr o i.row.cycles i.row.pagePenalty ldyEffect s
  | .and => readInstr o i.row.cycles i.row.pagePenalty andEffect s
  | .ora => readInstr o i.row.cycles i.row.pagePenalty oraEffect s
  | .eor => readInstr o i.row.cycles i.row.pagePenalty eorEffect s
  | .bit => readInstr o i.row.cycles i.row.pagePenalty bitEffect s
  | .adc => readInstr o i.row.cycles i.row.pagePenalty addCore s
  | .sbc => readInstr o i.row.cycles i.row.pagePenalty sbcEffect s
  | .cmp => readInstr o i.row.cycles i.row.pagePenalty cmpEffect s
  | .cpx => readInstr o i.row.cycles i.row.pagePenalty cpxEffect s
  | .cpy => readInstr o i.row.cycles i.row.pagePenalty cpyEffect s
  | .sta => storeInstr o i.row.cycles State.a s
  | .stx => storeInstr o i.row.cycles State.x s
  | .sty => storeInstr o i.row.cycles State.y s
  | .asl => rmwInstr o i.row.cycles aslOp s
  | .lsr => rmwInstr o i.row.cycles lsrOp s
  | .rol => rmwInstr o i.row.cycles rolOp s
  | .ror => rmwInstr o i.row.cycles rorOp s
  | .inc => rmwInstr o i.row.cycles incOp s
  | .dec => rmwInstr o i.row.cycles decOp s
  | .tax | .txa | .tay | .tya | .tsx | .txs | .pha | .pla | .php | .plp | .inx | .iny | .dex | .dey | .bpl | .bmi | .bvc | .bvs
  | .bcc | .bcs | .bne | .beq | .jmp | .jsr | .rts | .brk | .rti | .clc | .sec | .cli | .sei | .clv | .cld | .sed | .nop => exec i s

/-- Whatever its mode, an instruction with an operand is the shape of its mnemonic over that operand. -/
theorem exec_shapeOf (i : Instr) (o : Operand) (s : State) (ho : Operand.of i = some o) : exec i s = shapeOf i o s := by
  cases i with
  | ldaImm v => cases ho; rfl
  | ldaZp z => cases ho; rfl
  | ldaZpx z => cases ho; rfl
  | ldaAbs a => obtain rfl := Option.some.inj ho; rw [wordOf_bytes]; rfl
  | ldaAbx a => obtain rfl := Option.some.inj ho; rw [wordOf_bytes]; rfl
  | ldaAby a => obtain rfl := Option.some.inj ho; rw [wordOf_bytes]; rfl
  | ldaIzx z => cases ho; rfl
  | ldaIzy z => cases ho; rfl
  | ldxImm v => cases ho; rfl
  | ldxZp z => cases ho; rfl
  | ldxZpy z => cases ho; rfl
  | ldxAbs a => obtain rfl := Option.some.inj ho; rw [wordOf_bytes]; rfl
  | ldxAby a => obtain rfl := Option.some.inj ho; rw [wordOf_bytes]; rfl
  | ldyImm v => cases ho; rfl
  | ldyZp z => cases ho; rfl
  | ldyZpx z => cases ho; rfl
  | ldyAbs a => obtain rfl := Option.some.inj ho; rw [wordOf_bytes]; rfl
  | ldyAbx a => obtain rfl := Option.some.inj ho; rw [wordOf_bytes]; rfl
  | staZp z => cases ho; rfl
  | staZpx z => cases ho; rfl
  | staAbs a => obtain rfl := Option.some.inj ho; rw [wordOf_bytes]; rfl
  | staAbx a => obtain rfl := Option.some.inj ho; rw [wordOf_bytes]; rfl
  | staAby a => obtain rfl := Option.some.inj ho; rw [wordOf_bytes]; rfl
  | staIzx z => cases ho; rfl
  | staIzy z => cases ho; rfl
  | stxZp z => cases ho; rfl
  | stxZpy z => cases ho; rfl
  | stxAbs a => obtain rfl := Option.some.inj ho; rw [wordOf_bytes]; rfl
  | styZp z => cases ho; rfl
  | styZpx z => cases ho; rfl
  | styAbs a => obtain rfl := Option.some.inj ho; rw [wordOf_bytes]; rfl
  | tax => rfl
  | txa => rfl
  | tay => rfl
  | tya => rfl
  | tsx => rfl
  | txs => rfl
  | pha => rfl
  | pla => rfl
  | php => rfl
  | plp => rfl
  | andImm v => cases ho; rfl
  | andZp z => cases ho; rfl
  | andZpx z => cases ho; rfl
  | andAbs a => obtain rfl := Option.some.inj ho; rw [wordOf_bytes]; rfl
  | andAbx a => obtain rfl := Option.some.inj ho; rw [wordOf_bytes]; rfl
  | andAby a => obtain rfl := Option.some.inj ho; rw [wordOf_bytes]; rfl
  | andIzx z => cases ho; rfl
  | andIzy z => cases ho; rfl
  | oraImm v => cases ho; rfl
  | oraZp z => cases ho; rfl
  | oraZpx z => cases ho; rfl
  | oraAbs a => obtain rfl := Option.some.inj ho; rw [wordOf_bytes]; rfl
  | oraAbx a => obtain rfl := Option.some.inj ho; rw [wordOf_bytes]; rfl
  | oraAby a => obtain rfl := Option.some.inj ho; rw [wordOf_bytes]; rfl
  | oraIzx z => cases ho; rfl
  | oraIzy z => cases ho; rfl
  | eorImm v => cases ho; rfl
  | eorZp z => cases ho; rfl
  | eorZpx z => cases ho; rfl
  | eorAbs a => obtain rfl := Option.some.inj ho; rw [wordOf_bytes]; rfl
  | eorAbx a => obtain rfl := Option.some.inj ho; rw [wordOf_bytes]; rfl
  | eorAby a => obtain rfl := Option.some.inj ho; rw [wordOf_bytes]; rfl
  | eorIzx z => cases ho; rfl
  | eorIzy z => cases ho; rfl
  | bitZp z => cases ho; rfl
  | bitAbs a => obtain rfl := Option.some.inj ho; rw [wordOf_bytes]; rfl
  | adcImm v => cases ho; rfl
  | adcZp z => cases ho; rfl
  | adcZpx z => cases ho; rfl
  | adcAbs a => obtain rfl := Option.some.inj ho; rw [wordOf_bytes]; rfl
  | adcAbx a => obtain rfl := Option.some.inj ho; rw [wordOf_bytes]; rfl
  | adcAby a => obtain rfl := Option.some.inj ho; rw [wordOf_bytes]; rfl
  | adcIzx z => cases ho; rfl
  | adcIzy z => cases ho; rfl
  | sbcImm v => cases ho; rfl
  | sbcZp z => cases ho; rfl
  | sbcZpx z => cases ho; rfl
  | sbcAbs a => obtain rfl := Option.some.inj ho; rw [wordOf_bytes]; rfl
  | sbcAbx a => obtain rfl := Option.some.inj ho; rw [wordOf_bytes]; rfl
  | sbcAby a => obtain rfl := Option.some.inj ho; rw [wordOf_bytes]; rfl
  | sbcIzx z => cases ho; rfl
  | sbcIzy z => cases ho; rfl
  | aslAcc => cases ho
  | aslZp z => cases ho; rfl
  | aslZpx z => cases ho; rfl
  | aslAbs a => obtain rfl := Option.some.inj ho; rw [wordOf_bytes]; rfl
  | aslAbx a => obtain rfl := Option.some.inj ho; rw [wordOf_bytes]; rfl
  | lsrAcc => cases ho
  | lsrZp z => cases ho; rfl
  | lsrZpx z => cases ho; rfl
  | lsrAbs a => obtain rfl := Option.some.inj ho; rw [wordOf_bytes]; rfl
  | lsrAbx a => obtain rfl := Option.some.inj ho; rw [wordOf_bytes]; rfl
  | rolAcc => cases ho
  | rolZp z => cases ho; rfl
  | rolZpx z => cases ho; rfl
  | rolAbs a => obtain rfl := Option.some.inj ho; rw [wordOf_bytes]; rfl
  | rolAbx a => obtain rfl := Option.some.inj ho; rw [wordOf_bytes]; rfl
  | rorAcc => cases ho
  | rorZp z => cases ho; rfl
  | rorZpx z => cases ho; rfl
  | rorAbs a => obtain rfl := Option.some.inj ho; rw [wordOf_bytes]; rfl
  | rorAbx a => obtain rfl := Option.some.inj ho; rw [wordOf_bytes]; rfl
  | cmpImm v => cases ho; rfl
  | cmpZp z => cases ho; rfl
  | cmpZpx z => cases ho; rfl
  | cmpAbs a => obtain rfl := Option.some.inj ho; rw [wordOf_bytes]; rfl
  | cmpAbx a => obtain rfl := Option.some.inj ho; rw [wordOf_bytes]; rfl
  | cmpAby a => obtain rfl := Option.some.inj ho; rw [wordOf_bytes]; rfl
  | cmpIzx z => cases ho; rfl
  | cmpIzy z => cases ho; rfl
  | cpxImm v => cases ho; rfl
  | cpxZp z => cases ho; rfl
  | cpxAbs a => obtain rfl := Option.some.inj ho; rw [wordOf_bytes]; rfl
  | cpyImm v => cases ho; rfl
  | cpyZp z => cases ho; rfl
  | cpyAbs a => obtain rfl := Option.some.inj ho; rw [wordOf_bytes]; rfl
  | incZp z => cases ho; rfl
  | incZpx z => cases ho; rfl
  | incAbs a => obtain rfl := Option.some.inj ho; rw [wordOf_bytes]; rfl
  | incAbx a => obtain rfl := Option.some.inj ho; rw [wordOf_bytes]; rfl
  | decZp z => cases ho; rfl
  | decZpx z => cases ho; rfl
  | decAbs a => obtain rfl := Option.some.inj ho; rw [wordOf_bytes]; rfl
  | decAbx a => obtain rfl := Option.some.inj ho; rw [wordOf_bytes]; rfl
  | inx => rfl
  | iny => rfl
  | dex => rfl
  | dey => rfl
  | bpl d => rfl
  | bmi d => rfl
  | bvc d => rfl
  | bvs d => rfl
  | bcc d => rfl
  | bcs d => rfl
  | bne d => rfl
  | beq d => rfl
  | jmpAbs a => rfl
  | jmpInd a => rfl
  | jsr a => rfl
  | rts => rfl
  | brk => rfl
  | rti => rfl
  | clc => rfl
  | sec => rfl
  | cli => rfl
  | sei => rfl
  | clv => rfl
  | cld => rfl
  | sed => rfl
  | nop => rfl

theorem exec_of_lda (i : Instr) (o : Operand) (s : State) (ho : Operand.of i = some o) (hm : i.row.mnemonic = .lda) :
    exec i s = readInstr o i.row.cycles i.row.pagePenalty ldaEffect s := by
  rw [exec_shapeOf i o s ho, shapeOf, hm]

theorem exec_of_ldx (i : Instr) (o : Operand) (s : State) (ho : Operand.of i = some o) (hm : i.row.mnemonic = .ldx) :
    exec i s = readInstr o i.row.cycles i.row.pagePenalty ldxEffect s := by
  rw [exec_shapeOf i o s ho, shapeOf, hm]

theorem exec_of_ldy (i : Instr) (o : Operand) (s : State) (ho : Operand.of i = some o) (hm : i.row.mnemonic = .ldy) :
    exec i s = readInstr o i.row.cycles i.row.pagePenalty ldyEffect s := by
  rw [exec_shapeOf i o s ho, shapeOf, hm]

theorem exec_of_and (i : Instr) (o : Operand) (s : State) (ho : Operand.of i = some o) (hm : i.row.mnemonic = .and) :
    exec i s = readInstr o i.row.cycles i.row.pagePenalty andEffect s := by
  rw [exec_shapeOf i o s ho, shapeOf, hm]

theorem exec_of_ora (i : Instr) (o : Operand) (s : State) (ho : Operand.of i = some o) (hm : i.row.mnemonic = .ora) :
    exec i s = readInstr o i.row.cycles i.row.pagePenalty oraEffect s := by
  rw [exec_shapeOf i o s ho, shapeOf, hm]

theorem exec_of_eor (i : Instr) (o : Operand) (s : State) (ho : Operand.of i = some o) (hm : i.row.mnemonic = .eor) :
    exec i s = readInstr o i.row.cycles i.row.pagePenalty eorEffect s := by
  rw [exec_shapeOf i o s ho, shapeOf, hm]

theorem exec_of_bit (i : Instr) (o : Operand) (s : State) (ho : Operand.of i = some o) (hm : i.row.mnemonic = .bit) :
    exec i s = readInstr o i.row.cycles i.row.pagePenalty bitEffect s := by
  rw [exec_shapeOf i o s ho, shapeOf, hm]

theorem exec_of_adc (i : Instr) (o : Operand) (s : State) (ho : Operand.of i = some o) (hm : i.row.mnemonic = .adc) :
    exec i s = readInstr o i.row.cycles i.row.pagePenalty addCore s := by
  rw [exec_shapeOf i o s ho, shapeOf, hm]

theorem exec_of_sbc (i : Instr) (o : Operand) (s : State) (ho : Operand.of i = some o) (hm : i.row.mnemonic = .sbc) :
    exec i s = readInstr o i.row.cycles i.row.pagePenalty sbcEffect s := by
  rw [exec_shapeOf i o s ho, shapeOf, hm]

theorem exec_of_cmp (i : Instr) (o : Operand) (s : State) (ho : Operand.of i = some o) (hm : i.row.mnemonic = .cmp) :
    exec i s = readInstr o i.row.cycles i.row.pagePenalty cmpEffect s := by
  rw [exec_shapeOf i o s ho, shapeOf, hm]

theorem exec_of_cpx (i : Instr) (o : Operand) (s : State) (ho : Operand.of i = some o) (hm : i.row.mnemonic = .cpx) :
    exec i s = readInstr o i.row.cycles i.row.pagePenalty cpxEffect s := by
  rw [exec_shapeOf i o s ho, shapeOf, hm]

theorem exec_of_cpy (i : Instr) (o : Operand) (s : State) (ho : Operand.of i = some o) (hm : i.row.mnemonic = .cpy) :
    exec i s = readInstr o i.row.cycles i.row.pagePenalty cpyEffect s := by
  rw [exec_shapeOf i o s ho, shapeOf, hm]

theorem exec_of_sta (i : Instr) (o : Operand) (s : State) (ho : Operand.of i = some o) (hm : i.row.mnemonic = .sta) :
    exec i s = storeInstr o i.row.cycles State.a s := by
  rw [exec_shapeOf i o s ho, shapeOf, hm]

theorem exec_of_stx (i : Instr) (o : Operand) (s : State) (ho : Operand.of i = some o) (hm : i.row.mnemonic = .stx) :
    exec i s = storeInstr o i.row.cycles State.x s := by
  rw [exec_shapeOf i o s ho, shapeOf, hm]

theorem exec_of_sty (i : Instr) (o : Operand) (s : State) (ho : Operand.of i = some o) (hm : i.row.mnemonic = .sty) :
    exec i s = storeInstr o i.row.cycles State.y s := by
  rw [exec_shapeOf i o s ho, shapeOf, hm]

theorem exec_of_asl (i : Instr) (o : Operand) (s : State) (ho : Operand.of i = some o) (hm : i.row.mnemonic = .asl) :
    exec i s = rmwInstr o i.row.cycles aslOp s := by
  rw [exec_shapeOf i o s ho, shapeOf, hm]

theorem exec_of_lsr (i : Instr) (o : Operand) (s : State) (ho : Operand.of i = some o) (hm : i.row.mnemonic = .lsr) :
    exec i s = rmwInstr o i.row.cycles lsrOp s := by
  rw [exec_shapeOf i o s ho, shapeOf, hm]

theorem exec_of_rol (i : Instr) (o : Operand) (s : State) (ho : Operand.of i = some o) (hm : i.row.mnemonic = .rol) :
    exec i s = rmwInstr o i.row.cycles rolOp s := by
  rw [exec_shapeOf i o s ho, shapeOf, hm]

theorem exec_of_ror (i : Instr) (o : Operand) (s : State) (ho : Operand.of i = some o) (hm : i.row.mnemonic = .ror) :
    exec i s = rmwInstr o i.row.cycles rorOp s := by
  rw [exec_shapeOf i o s ho, shapeOf, hm]

theorem exec_of_inc (i : Instr) (o : Operand) (s : State) (ho : Operand.of i = some o) (hm : i.row.mnemonic = .inc) :
    exec i s = rmwInstr o i.row.cycles incOp s := by
  rw [exec_shapeOf i o s ho, shapeOf, hm]

theorem exec_of_dec (i : Instr) (o : Operand) (s : State) (ho : Operand.of i = some o) (hm : i.row.mnemonic = .dec) :
    exec i s = rmwInstr o i.row.cycles decOp s := by
  rw [exec_shapeOf i o s ho, shapeOf, hm]

end Sys2Proof.Machine
end

