-- ==== Sys2Proof/Laws/Memory.lean ====
section
/-! SUPPORT. The laws of a memory: read after write, and that every operation keeps the canonical form. -/

namespace Sys2Proof.Machine.Memory

/-! ## Reads -/

@[simp] theorem read_nil (k : Nat) : Memory.read [] k = unlisted := rfl

theorem read_erase (m : Memory) (k j : Nat) :
    (Memory.erase m k).read j = if j = k then unlisted else m.read j := by
  induction m with
  | nil => simp [Memory.erase, Memory.read]
  | cons e m ih =>
    simp only [Memory.erase, Memory.read]
    split
    · rw [ih]; split <;> simp_all [eq_comm]
    · simp only [Memory.read, ih]; split <;> simp_all

theorem read_insert (m : Memory) (k j : Nat) (v : Byte) :
    (Memory.insert (Memory.erase m k) k v).read j = if j = k then v else m.read j := by
  induction m with
  | nil => simp [Memory.erase, Memory.insert, Memory.read, eq_comm]
  | cons e m ih =>
    simp only [Memory.erase]
    split
    next h =>
      rw [ih]
      by_cases hj : j = k
      · simp [hj]
      · simp [Memory.read, hj, show e.1 ≠ j by omega]
    · simp only [Memory.insert]
      split
      · simp only [Memory.read, read_erase]
        by_cases hj : k = j
        · simp [hj]
        · simp [hj, Ne.symm hj]
      · simp only [Memory.read, ih]; split <;> simp_all

/-- A read after a write: the byte written in its cell, and every other cell as before. -/
theorem read_write (m : Memory) (k j : Nat) (v : Byte) : (m.write k v).read j = if j = k then v else m.read j := by
  unfold Memory.write
  split
  · rw [read_erase]; simp_all
  · exact read_insert m k j v

@[simp] theorem read_write_same (m : Memory) (k : Nat) (v : Byte) : (m.write k v).read k = v := by
  simp [read_write]

theorem read_write_other (m : Memory) (k j : Nat) (v : Byte) (h : j ≠ k) : (m.write k v).read j = m.read j := by
  simp [read_write, h]

/-! ## The canonical form -/

theorem wfFrom_mono {size lo lo' : Nat} {m : Memory} (h : lo' ≤ lo) (w : m.wfFrom size lo = true) :
    m.wfFrom size lo' = true := by
  cases m with
  | nil => rfl
  | cons e m =>
    simp only [Memory.wfFrom, Bool.and_eq_true, decide_eq_true_eq] at *
    exact ⟨⟨⟨by omega, w.1.1.2⟩, w.1.2⟩, w.2⟩

/-- Every listed address is at least the bound. -/
theorem erase_of_lt {size lo k : Nat} {m : Memory} (h : k < lo) (w : m.wfFrom size lo = true) : Memory.erase m k = m := by
  induction m generalizing lo with
  | nil => rfl
  | cons e m ih =>
    simp only [Memory.wfFrom, Bool.and_eq_true, decide_eq_true_eq] at w
    have : e.1 ≠ k := by omega
    simp only [Memory.erase, this, if_false]
    rw [ih (by omega) w.2]

theorem wfFrom_erase {size lo : Nat} {m : Memory} (k : Nat) (w : m.wfFrom size lo = true) :
    (Memory.erase m k).wfFrom size lo = true := by
  induction m generalizing lo with
  | nil => rfl
  | cons e m ih =>
    simp only [Memory.wfFrom, Bool.and_eq_true, decide_eq_true_eq] at w
    simp only [Memory.erase]
    split
    · exact wfFrom_mono (by omega) (ih w.2)
    · simp only [Memory.wfFrom, Bool.and_eq_true, decide_eq_true_eq]
      exact ⟨w.1, ih w.2⟩

theorem wfFrom_insert {size lo k : Nat} {m : Memory} {v : Byte} (hk : k < size) (lk : lo ≤ k) (hv : v ≠ unlisted)
    (w : m.wfFrom size lo = true) : (Memory.insert (Memory.erase m k) k v).wfFrom size lo = true := by
  induction m generalizing lo with
  | nil => simp [Memory.erase, Memory.insert, Memory.wfFrom, hk, lk, hv]
  | cons e m ih =>
    simp only [Memory.wfFrom, Bool.and_eq_true, decide_eq_true_eq] at w
    simp only [Memory.erase]
    split
    next he =>
      rw [erase_of_lt (lo := e.1 + 1) (by omega) w.2]
      cases m with
      | nil => simp [Memory.insert, Memory.wfFrom, hk, lk, hv]
      | cons e' m =>
        have w2 := w.2
        simp only [Memory.wfFrom, Bool.and_eq_true, decide_eq_true_eq] at w2
        have : k < e'.1 := by omega
        simp only [Memory.insert, this, if_true, Memory.wfFrom, Bool.and_eq_true, decide_eq_true_eq, bne_iff_ne, ne_eq]
        exact ⟨⟨⟨lk, hk⟩, hv⟩, ⟨⟨by omega, w2.1.1.2⟩, by simpa using w2.1.2⟩, w2.2⟩
    next he =>
      simp only [Memory.insert]
      split
      next hlt =>
        rw [erase_of_lt (lo := e.1 + 1) (by omega) w.2]
        simp only [Memory.wfFrom, Bool.and_eq_true, decide_eq_true_eq, bne_iff_ne, ne_eq]
        exact ⟨⟨⟨lk, hk⟩, hv⟩, ⟨⟨by omega, w.1.1.2⟩, by simpa using w.1.2⟩, w.2⟩
      next hlt =>
        simp only [Memory.wfFrom, Bool.and_eq_true, decide_eq_true_eq]
        exact ⟨w.1, ih (by omega) w.2⟩

/-- A write keeps the canonical form. -/
theorem wf_write {size k : Nat} {m : Memory} (v : Byte) (hk : k < size) (w : m.wf size = true) :
    (m.write k v).wf size = true := by
  unfold Memory.write
  split
  · exact wfFrom_erase k w
  next hv => exact wfFrom_insert hk (Nat.zero_le k) hv w

theorem read_of_lt {size lo : Nat} {m : Memory} {j : Nat} (w : m.wfFrom size lo = true) (h : j < lo) :
    m.read j = unlisted := by
  induction m generalizing lo with
  | nil => rfl
  | cons e m ih =>
    simp only [Memory.wfFrom, Bool.and_eq_true, decide_eq_true_eq] at w
    have : e.1 ≠ j := by omega
    simp only [Memory.read, this, if_false]
    exact ih w.2 (by omega)

/-- Two canonical arrays that read alike are one list. -/
theorem eq_of_read_eq {size lo : Nat} {m n : Memory} (wm : m.wfFrom size lo = true) (wn : n.wfFrom size lo = true)
    (h : ∀ j, m.read j = n.read j) : m = n := by
  induction m generalizing lo n with
  | nil =>
    cases n with
    | nil => rfl
    | cons f n =>
      have hf := h f.1
      simp only [Memory.wfFrom, Bool.and_eq_true, decide_eq_true_eq, bne_iff_ne, ne_eq] at wn
      simp [Memory.read] at hf
      exact absurd hf.symm wn.1.2
  | cons e m ih =>
    simp only [Memory.wfFrom, Bool.and_eq_true, decide_eq_true_eq, bne_iff_ne, ne_eq] at wm
    cases n with
    | nil =>
      have he := h e.1
      simp [Memory.read] at he
      exact absurd he wm.1.2
    | cons f n =>
      simp only [Memory.wfFrom, Bool.and_eq_true, decide_eq_true_eq, bne_iff_ne, ne_eq] at wn
      have he := h e.1
      have hf := h f.1
      have key : e.1 = f.1 := by
        rcases Nat.lt_trichotomy e.1 f.1 with hl | hl | hl
        · rw [read_of_lt (m := f :: n) (lo := f.1) (size := size)
            (by simp [Memory.wfFrom, wn.1.1.2, wn.1.2, wn.2]) hl] at he
          simp [Memory.read] at he
          exact absurd he wm.1.2
        · exact hl
        · rw [read_of_lt (m := e :: m) (lo := e.1) (size := size)
            (by simp [Memory.wfFrom, wm.1.1.2, wm.1.2, wm.2]) hl] at hf
          simp [Memory.read] at hf
          exact absurd hf.symm wn.1.2
      have hv : e.2 = f.2 := by simpa [Memory.read, key] using he
      have tails : m = n := by
        refine ih (lo := e.1 + 1) wm.2 (key ▸ wn.2) fun j => ?_
        by_cases hj : e.1 = j
        · rw [read_of_lt wm.2 (by omega), read_of_lt wn.2 (by omega)]
        · simpa [Memory.read, hj, key ▸ hj] using h j
      rw [show e = f from Prod.ext key hv, tails]

/-! ## A list of bytes placed from an index -/

theorem wfFrom_ofBytesFrom (bs : List Byte) (k size : Nat) (h : k + bs.length ≤ size) :
    (ofBytesFrom k bs).wfFrom size k = true := by
  induction bs generalizing k with
  | nil => rfl
  | cons b bs ih =>
    simp only [List.length_cons] at h
    simp only [ofBytesFrom]
    split
    · exact wfFrom_mono (by omega) (ih (k + 1) (by omega))
    · simp only [Memory.wfFrom, Bool.and_eq_true, decide_eq_true_eq, bne_iff_ne, ne_eq]
      exact ⟨⟨⟨le_refl k, by omega⟩, by assumption⟩, ih (k + 1) (by omega)⟩

theorem wf_ofBytes (bs : List Byte) (size : Nat) (h : bs.length ≤ size) : (ofBytes bs).wf size = true :=
  wfFrom_ofBytesFrom bs 0 size (by omega)

theorem read_ofBytesFrom (bs : List Byte) (k i : Nat) : (ofBytesFrom k bs).read (k + i) = bs.getD i 0 := by
  induction bs generalizing k i with
  | nil => simp [ofBytesFrom, unlisted]
  | cons b bs ih =>
    cases i with
    | zero =>
      simp only [ofBytesFrom, Nat.add_zero, List.getD_cons_zero]
      split
      next hb =>
        rw [hb]
        exact read_of_lt (wfFrom_ofBytesFrom bs (k + 1) (k + 1 + bs.length) (le_refl _)) (by omega)
      · simp [Memory.read]
    | succ i =>
      have e : k + (i + 1) = k + 1 + i := by omega
      simp only [ofBytesFrom, List.getD_cons_succ]
      split
      · rw [e]; exact ih (k + 1) i
      · simp only [Memory.read, show k ≠ k + (i + 1) by omega, if_false]
        rw [e]; exact ih (k + 1) i

/-- Cell `i` of an array made of a list of bytes is byte `i`, and $00 past its end. -/
theorem read_ofBytes (bs : List Byte) (i : Nat) : (ofBytes bs).read i = bs.getD i 0 := by
  simpa [ofBytes] using read_ofBytesFrom bs 0 i

/-- A canonical array lists nothing at or above its size. -/
theorem read_of_le {size lo j : Nat} {m : Memory} (w : m.wfFrom size lo = true) (h : size ≤ j) :
    m.read j = unlisted := by
  induction m generalizing lo with
  | nil => rfl
  | cons e m ih =>
    simp only [Memory.wfFrom, Bool.and_eq_true, decide_eq_true_eq] at w
    have : e.1 ≠ j := by omega
    simp only [Memory.read, this, if_false]
    exact ih w.2

end Sys2Proof.Machine.Memory
end

