-- ==== Sys2Proof/Laws/Cartridge.lean ====
section
/-! SUPPORT. What an access does to the cartridge, and that the cartridge's invariant holds after every one. -/

namespace Sys2Proof.Machine

/-! ## What a CPU write leaves alone -/

theorem mmc1Write_kept (c : Cart) (r : Mmc1) (a : Word) (v : Byte) :
    (c.mmc1Write r a v).config = c.config ∧ (c.mmc1Write r a v).prgRom = c.prgRom ∧
    (c.mmc1Write r a v).chrRom = c.chrRom ∧ (c.mmc1Write r a v).prgRam = c.prgRam ∧
    (c.mmc1Write r a v).chrRam = c.chrRam := by
  unfold Cart.mmc1Write
  split
  · exact ⟨rfl, rfl, rfl, rfl, rfl⟩
  · split <;> exact ⟨rfl, rfl, rfl, rfl, rfl⟩

/-- A CPU write changes no ROM, no CHR-RAM and no configuration. -/
theorem cpuWrite_kept (c : Cart) (a : Word) (v : Byte) :
    (c.cpuWrite a v).config = c.config ∧ (c.cpuWrite a v).prgRom = c.prgRom ∧ (c.cpuWrite a v).chrRom = c.chrRom ∧
    (c.cpuWrite a v).chrRam = c.chrRam := by
  unfold Cart.cpuWrite
  split
  · exact ⟨rfl, rfl, rfl, rfl⟩
  · split
    · split <;> exact ⟨rfl, rfl, rfl, rfl⟩
    · cases c.board with
      | nrom => exact ⟨rfl, rfl, rfl, rfl⟩
      | mmc1 r =>
        have h := mmc1Write_kept c r a v
        exact ⟨h.1, h.2.1, h.2.2.1, h.2.2.2.2⟩

/-- Only a write to `$8000-$FFFF` reaches the mapper. -/
theorem cpuWrite_board_of_lt (c : Cart) (a : Word) (v : Byte) (h : a.toNat < 0x8000) :
    (c.cpuWrite a v).board = c.board ∧ (c.cpuWrite a v).mirroring = c.mirroring := by
  unfold Cart.cpuWrite
  split
  · exact ⟨rfl, rfl⟩
  · split <;> exact ⟨rfl, rfl⟩

/-- The mapper write: what it does to the board and the mirroring, by the case it falls in. -/
theorem cpuWrite_mmc1 (c : Cart) (r : Mmc1) (a : Word) (v : Byte) (hb : c.board = .mmc1 r) (h : 0x8000 ≤ a.toNat) :
    c.cpuWrite a v = c.mmc1Write r a v := by
  unfold Cart.cpuWrite
  rw [if_neg (by omega), if_neg (by omega), hb]

theorem cpuWrite_nrom (c : Cart) (a : Word) (v : Byte) (hb : c.board = .nrom) (h : 0x8000 ≤ a.toNat) :
    c.cpuWrite a v = c := by
  unfold Cart.cpuWrite
  rw [if_neg (by omega), if_neg (by omega), hb]

theorem mmc1Write_reset (c : Cart) (r : Mmc1) (a : Word) (v : Byte) (h : v.getLsbD 7 = true) :
    c.mmc1Write r a v = { c with board := .mmc1 r.resetWrite } := by
  unfold Cart.mmc1Write; rw [if_pos h]

theorem mmc1Write_data (c : Cart) (r : Mmc1) (a : Word) (v : Byte) (h : v.getLsbD 7 = false) (hc : r.count < 4) :
    c.mmc1Write r a v = { c with board := .mmc1 (r.dataWrite v) } := by
  unfold Cart.mmc1Write; rw [if_neg (by rw [h]; decide), if_pos hc]

theorem mmc1Write_commit (c : Cart) (r : Mmc1) (a : Word) (v : Byte) (h : v.getLsbD 7 = false) (hc : ¬ r.count < 4) :
    c.mmc1Write r a v = { c with
      board := .mmc1 (r.commit a (r.shifted v 4))
      mirroring := if commitSelect a = 0 then mirroringOf (r.shifted v 4) else c.mirroring } := by
  unfold Cart.mmc1Write; rw [if_neg (by rw [h]; decide), if_neg hc]

/-! ## The invariant -/

theorem Mmc1.inv_powerOn : Mmc1.powerOn.inv = true := by decide

theorem Mmc1.inv_resetWrite (r : Mmc1) : r.resetWrite.inv = true := by simp [Mmc1.inv, Mmc1.resetWrite]

theorem Mmc1.inv_commit (r : Mmc1) (a : Word) (v : BitVec 5) : (r.commit a v).inv = true := by
  simp only [Mmc1.commit]
  split_ifs <;> simp [Mmc1.inv]

/-- One more bit of the shift register. -/
theorem Mmc1.shifted_toNat (r : Mmc1) (v : Byte) (n : Nat) (hn : n < 5) (hs : r.shift.toNat < 2 ^ n) :
    (r.shifted v n).toNat = r.shift.toNat + if v.getLsbD 0 then 2 ^ n else 0 := by
  unfold Mmc1.shifted
  generalize v.getLsbD 0 = b
  have key : ∀ (n : Fin 5) (b : Bool) (x : BitVec 5), x.toNat < 2 ^ n.val →
      (x ||| ((BitVec.ofBool b).setWidth 5 <<< n.val)).toNat = x.toNat + if b then 2 ^ n.val else 0 := by decide
  exact key ⟨n, hn⟩ b r.shift hs

theorem Mmc1.inv_dataWrite (r : Mmc1) (v : Byte) (hr : r.inv = true) (hc : r.count < 4) :
    (r.dataWrite v).inv = true := by
  simp only [Mmc1.inv, Bool.and_eq_true, decide_eq_true_eq] at *
  have e := Mmc1.shifted_toNat r v r.count (by omega) hr.2
  simp only [Mmc1.dataWrite, e]
  have p := Nat.pow_succ (n := 2) (m := r.count)
  refine ⟨by omega, ?_⟩
  split <;> omega

theorem Cart.inv_iff (c : Cart) : c.inv = true ↔ c.config.wellFormed = true ∧ c.prgRom.wf (prgSize c.config) = true ∧
    c.chrRom.wf (c.config.chrBanks8k * 0x2000) = true ∧
    c.prgRam.wf (if c.config.hasPrgRam then prgRamSize else 0) = true ∧
    c.chrRam.wf (if chrIsRam c.config then 0x2000 else 0) = true ∧
    (match c.board with
      | .nrom => c.mirroring == c.config.mirroringInit
      | .mmc1 r => c.config.hasPrgRam && r.inv) = true := by
  unfold Cart.inv
  rw [Bool.and_eq_true, Bool.and_eq_true, Bool.and_eq_true, Bool.and_eq_true, Bool.and_eq_true]
  simp only [and_assoc]
  all_goals exact Iff.rfl

/-- Every CPU write keeps the cartridge's invariant. -/
theorem Cart.inv_cpuWrite (c : Cart) (a : Word) (v : Byte) (h : c.inv = true) : (c.cpuWrite a v).inv = true := by
  rw [Cart.inv_iff] at h
  obtain ⟨h1, h2, h3, h4, h5, h6⟩ := h
  unfold Cart.cpuWrite
  split
  · exact (Cart.inv_iff c).2 ⟨h1, h2, h3, h4, h5, h6⟩
  · split
    · split
      next hp =>
        refine (Cart.inv_iff _).2 ⟨h1, h2, h3, ?_, h5, h6⟩
        have : c.config.hasPrgRam = true := by
          unfold Cart.prgRamPresent at hp
          cases hb : c.board with
          | nrom => simpa [hb] using hp
          | mmc1 r => rw [hb] at h6; simp only [Bool.and_eq_true] at h6; exact h6.1
        rw [this] at h4
        simp only [this, if_true] at h4 ⊢
        exact Memory.wf_write v (by unfold prgRamSize; omega) h4
      · exact (Cart.inv_iff c).2 ⟨h1, h2, h3, h4, h5, h6⟩
    · cases hb : c.board with
      | nrom => exact (Cart.inv_iff c).2 ⟨h1, h2, h3, h4, h5, h6⟩
      | mmc1 r =>
        rw [hb] at h6
        simp only [Bool.and_eq_true] at h6
        simp only [Cart.mmc1Write]
        split
        · exact (Cart.inv_iff _).2 ⟨h1, h2, h3, h4, h5, by simp [h6.1, Mmc1.inv_resetWrite]⟩
        · split
          next hc => exact (Cart.inv_iff _).2 ⟨h1, h2, h3, h4, h5, by simp [h6.1, Mmc1.inv_dataWrite r v h6.2 hc]⟩
          · exact (Cart.inv_iff _).2 ⟨h1, h2, h3, h4, h5, by simp [h6.1, Mmc1.inv_commit]⟩

/-- A PPU-side address names a cell of CHR memory. -/
theorem Cart.chrIndex_lt (c : Cart) (a : Word) : c.chrIndex a < chrSize c.config := by
  have h : 0 < chrSize c.config := by
    unfold chrSize chrIsRam
    split
    · decide
    next h => simp at h; omega
  unfold Cart.chrIndex
  cases c.board with
  | nrom => exact Nat.mod_lt _ h
  | mmc1 r => dsimp only; split_ifs <;> exact Nat.mod_lt _ h

/-- Every PPU-side write keeps the cartridge's invariant. -/
theorem Cart.inv_ppuWrite (c : Cart) (a : Word) (v : Byte) (h : c.inv = true) : (c.ppuWrite a v).inv = true := by
  rw [Cart.inv_iff] at h
  obtain ⟨h1, h2, h3, h4, h5, h6⟩ := h
  unfold Cart.ppuWrite
  split
  next hr =>
    refine (Cart.inv_iff _).2 ⟨h1, h2, h3, h4, ?_, h6⟩
    have hl := Cart.chrIndex_lt c a
    simp only [chrSize, hr, if_true] at hl h5 ⊢
    exact Memory.wf_write v hl h5
  · exact (Cart.inv_iff c).2 ⟨h1, h2, h3, h4, h5, h6⟩

/-- A CPU address of `$8000-$FFFF` names a cell of PRG-ROM. -/
theorem Cart.prgIndex_lt (c : Cart) (a : Word) (h : 1 ≤ c.config.prgBanks16k) : c.prgIndex a < prgSize c.config := by
  have hp : 0 < prgSize c.config := by unfold prgSize; omega
  unfold Cart.prgIndex
  cases c.board with
  | nrom => exact Nat.mod_lt _ hp
  | mmc1 r =>
    have ho : (a &&& 0x3FFF).toNat < 0x4000 := by
      simp only [BitVec.toNat_and]
      exact Nat.lt_of_le_of_lt Nat.and_le_right (by decide)
    simp only [Mmc1.prgIndex]
    split_ifs <;> first | exact Nat.mod_lt _ hp | (unfold prgSize; omega)

/-! ## Loading -/

/-- A loaded cartridge meets the invariant, if the PRG-RAM contents given are an array. -/
theorem Cart.inv_loadImage (buf : List Byte) (ram : Memory) (c : Cart) (hr : ram.wf prgRamSize = true)
    (h : loadImage buf ram = .ok c) : c.inv = true := by
  unfold loadImage at h
  split at h
  · cases h
  split at h
  · cases h
  cases hb : imageBoard buf with
  | none => rw [hb] at h; cases h
  | some board =>
    simp only [hb] at h
    split at h
    · cases h
    next hz =>
      split at h
      · cases h
      · cases h
        refine (Cart.inv_iff _).2 ⟨?_, ?_, ?_, ?_, rfl, ?_⟩
        · have b4 := (imageByte buf 4).isLt
          have b5 := (imageByte buf 5).isLt
          have hm : (imageMirroring buf).fromImage = true := by unfold imageMirroring; split_ifs <;> rfl
          have hz' : (imageByte buf 4).toNat ≠ 0 := hz
          simp only [Cart.powerUp, CartConfig.wellFormed, imageConfig, Bool.and_eq_true]
          exact ⟨⟨⟨decide_eq_true (by omega), decide_eq_true (by omega)⟩, decide_eq_true (by omega)⟩, hm⟩
        · exact Memory.wf_ofBytes _ _ (by simp [Cart.powerUp])
        · exact Memory.wf_ofBytes _ _ (by simp [Cart.powerUp])
        · show Memory.wf (if (imageConfig buf).hasPrgRam then prgRamSize else 0)
            (if (imageConfig buf).hasPrgRam then ram else []) = true
          by_cases hp : (imageConfig buf).hasPrgRam = true
          · rw [if_pos hp, if_pos hp]; exact hr
          · rw [if_neg hp, if_neg hp]; rfl
        · unfold imageBoard at hb
          split at hb
          · cases hb; simp [Cart.powerUp]
          · split at hb
            next h1 => cases hb; simp [Cart.powerUp, imageConfig, h1, Mmc1.inv_powerOn]
            · cases hb

end Sys2Proof.Machine
end

