-- ==== Sys2Proof/Laws/State.lean ====
section
/-! SUPPORT. One lemma for each field of State after each register or field write. -/

namespace Sys2Proof.Machine.State

/-! ### `setA` -/

@[simp] theorem setA_a (v : Byte) (s : State) : (s.setA v).a = v := rfl
@[simp] theorem setA_x (v : Byte) (s : State) : (s.setA v).x = s.x := rfl
@[simp] theorem setA_y (v : Byte) (s : State) : (s.setA v).y = s.y := rfl
@[simp] theorem setA_sp (v : Byte) (s : State) : (s.setA v).sp = s.sp := rfl
@[simp] theorem setA_p (v : Byte) (s : State) : (s.setA v).p = s.p := rfl
@[simp] theorem setA_pc (v : Byte) (s : State) : (s.setA v).pc = s.pc := rfl
@[simp] theorem setA_cycles (v : Byte) (s : State) : (s.setA v).cycles = s.cycles := rfl
@[simp] theorem setA_nmiPending (v : Byte) (s : State) : (s.setA v).nmiPending = s.nmiPending := rfl
@[simp] theorem setA_nmiPrev (v : Byte) (s : State) : (s.setA v).nmiPrev = s.nmiPrev := rfl
@[simp] theorem setA_irqLine (v : Byte) (s : State) : (s.setA v).irqLine = s.irqLine := rfl
@[simp] theorem setA_halted (v : Byte) (s : State) : (s.setA v).halted = s.halted := rfl
@[simp] theorem setA_dmaPage (v : Byte) (s : State) : (s.setA v).dmaPage = s.dmaPage := rfl
@[simp] theorem setA_ram (v : Byte) (s : State) : (s.setA v).ram = s.ram := rfl
@[simp] theorem setA_cart (v : Byte) (s : State) : (s.setA v).cart = s.cart := rfl
@[simp] theorem setA_env (v : Byte) (s : State) : (s.setA v).env = s.env := rfl
@[simp] theorem setA_out (v : Byte) (s : State) : (s.setA v).out = s.out := rfl

/-! ### `setX` -/

@[simp] theorem setX_a (v : Byte) (s : State) : (s.setX v).a = s.a := rfl
@[simp] theorem setX_x (v : Byte) (s : State) : (s.setX v).x = v := rfl
@[simp] theorem setX_y (v : Byte) (s : State) : (s.setX v).y = s.y := rfl
@[simp] theorem setX_sp (v : Byte) (s : State) : (s.setX v).sp = s.sp := rfl
@[simp] theorem setX_p (v : Byte) (s : State) : (s.setX v).p = s.p := rfl
@[simp] theorem setX_pc (v : Byte) (s : State) : (s.setX v).pc = s.pc := rfl
@[simp] theorem setX_cycles (v : Byte) (s : State) : (s.setX v).cycles = s.cycles := rfl
@[simp] theorem setX_nmiPending (v : Byte) (s : State) : (s.setX v).nmiPending = s.nmiPending := rfl
@[simp] theorem setX_nmiPrev (v : Byte) (s : State) : (s.setX v).nmiPrev = s.nmiPrev := rfl
@[simp] theorem setX_irqLine (v : Byte) (s : State) : (s.setX v).irqLine = s.irqLine := rfl
@[simp] theorem setX_halted (v : Byte) (s : State) : (s.setX v).halted = s.halted := rfl
@[simp] theorem setX_dmaPage (v : Byte) (s : State) : (s.setX v).dmaPage = s.dmaPage := rfl
@[simp] theorem setX_ram (v : Byte) (s : State) : (s.setX v).ram = s.ram := rfl
@[simp] theorem setX_cart (v : Byte) (s : State) : (s.setX v).cart = s.cart := rfl
@[simp] theorem setX_env (v : Byte) (s : State) : (s.setX v).env = s.env := rfl
@[simp] theorem setX_out (v : Byte) (s : State) : (s.setX v).out = s.out := rfl

/-! ### `setY` -/

@[simp] theorem setY_a (v : Byte) (s : State) : (s.setY v).a = s.a := rfl
@[simp] theorem setY_x (v : Byte) (s : State) : (s.setY v).x = s.x := rfl
@[simp] theorem setY_y (v : Byte) (s : State) : (s.setY v).y = v := rfl
@[simp] theorem setY_sp (v : Byte) (s : State) : (s.setY v).sp = s.sp := rfl
@[simp] theorem setY_p (v : Byte) (s : State) : (s.setY v).p = s.p := rfl
@[simp] theorem setY_pc (v : Byte) (s : State) : (s.setY v).pc = s.pc := rfl
@[simp] theorem setY_cycles (v : Byte) (s : State) : (s.setY v).cycles = s.cycles := rfl
@[simp] theorem setY_nmiPending (v : Byte) (s : State) : (s.setY v).nmiPending = s.nmiPending := rfl
@[simp] theorem setY_nmiPrev (v : Byte) (s : State) : (s.setY v).nmiPrev = s.nmiPrev := rfl
@[simp] theorem setY_irqLine (v : Byte) (s : State) : (s.setY v).irqLine = s.irqLine := rfl
@[simp] theorem setY_halted (v : Byte) (s : State) : (s.setY v).halted = s.halted := rfl
@[simp] theorem setY_dmaPage (v : Byte) (s : State) : (s.setY v).dmaPage = s.dmaPage := rfl
@[simp] theorem setY_ram (v : Byte) (s : State) : (s.setY v).ram = s.ram := rfl
@[simp] theorem setY_cart (v : Byte) (s : State) : (s.setY v).cart = s.cart := rfl
@[simp] theorem setY_env (v : Byte) (s : State) : (s.setY v).env = s.env := rfl
@[simp] theorem setY_out (v : Byte) (s : State) : (s.setY v).out = s.out := rfl

/-! ### `setSP` -/

@[simp] theorem setSP_a (v : Byte) (s : State) : (s.setSP v).a = s.a := rfl
@[simp] theorem setSP_x (v : Byte) (s : State) : (s.setSP v).x = s.x := rfl
@[simp] theorem setSP_y (v : Byte) (s : State) : (s.setSP v).y = s.y := rfl
@[simp] theorem setSP_sp (v : Byte) (s : State) : (s.setSP v).sp = v := rfl
@[simp] theorem setSP_p (v : Byte) (s : State) : (s.setSP v).p = s.p := rfl
@[simp] theorem setSP_pc (v : Byte) (s : State) : (s.setSP v).pc = s.pc := rfl
@[simp] theorem setSP_cycles (v : Byte) (s : State) : (s.setSP v).cycles = s.cycles := rfl
@[simp] theorem setSP_nmiPending (v : Byte) (s : State) : (s.setSP v).nmiPending = s.nmiPending := rfl
@[simp] theorem setSP_nmiPrev (v : Byte) (s : State) : (s.setSP v).nmiPrev = s.nmiPrev := rfl
@[simp] theorem setSP_irqLine (v : Byte) (s : State) : (s.setSP v).irqLine = s.irqLine := rfl
@[simp] theorem setSP_halted (v : Byte) (s : State) : (s.setSP v).halted = s.halted := rfl
@[simp] theorem setSP_dmaPage (v : Byte) (s : State) : (s.setSP v).dmaPage = s.dmaPage := rfl
@[simp] theorem setSP_ram (v : Byte) (s : State) : (s.setSP v).ram = s.ram := rfl
@[simp] theorem setSP_cart (v : Byte) (s : State) : (s.setSP v).cart = s.cart := rfl
@[simp] theorem setSP_env (v : Byte) (s : State) : (s.setSP v).env = s.env := rfl
@[simp] theorem setSP_out (v : Byte) (s : State) : (s.setSP v).out = s.out := rfl

/-! ### `setP` -/

@[simp] theorem setP_a (v : Byte) (s : State) : (s.setP v).a = s.a := rfl
@[simp] theorem setP_x (v : Byte) (s : State) : (s.setP v).x = s.x := rfl
@[simp] theorem setP_y (v : Byte) (s : State) : (s.setP v).y = s.y := rfl
@[simp] theorem setP_sp (v : Byte) (s : State) : (s.setP v).sp = s.sp := rfl
@[simp] theorem setP_p (v : Byte) (s : State) : (s.setP v).p = v := rfl
@[simp] theorem setP_pc (v : Byte) (s : State) : (s.setP v).pc = s.pc := rfl
@[simp] theorem setP_cycles (v : Byte) (s : State) : (s.setP v).cycles = s.cycles := rfl
@[simp] theorem setP_nmiPending (v : Byte) (s : State) : (s.setP v).nmiPending = s.nmiPending := rfl
@[simp] theorem setP_nmiPrev (v : Byte) (s : State) : (s.setP v).nmiPrev = s.nmiPrev := rfl
@[simp] theorem setP_irqLine (v : Byte) (s : State) : (s.setP v).irqLine = s.irqLine := rfl
@[simp] theorem setP_halted (v : Byte) (s : State) : (s.setP v).halted = s.halted := rfl
@[simp] theorem setP_dmaPage (v : Byte) (s : State) : (s.setP v).dmaPage = s.dmaPage := rfl
@[simp] theorem setP_ram (v : Byte) (s : State) : (s.setP v).ram = s.ram := rfl
@[simp] theorem setP_cart (v : Byte) (s : State) : (s.setP v).cart = s.cart := rfl
@[simp] theorem setP_env (v : Byte) (s : State) : (s.setP v).env = s.env := rfl
@[simp] theorem setP_out (v : Byte) (s : State) : (s.setP v).out = s.out := rfl

/-! ### `setPC` -/

@[simp] theorem setPC_a (w : Word) (s : State) : (s.setPC w).a = s.a := rfl
@[simp] theorem setPC_x (w : Word) (s : State) : (s.setPC w).x = s.x := rfl
@[simp] theorem setPC_y (w : Word) (s : State) : (s.setPC w).y = s.y := rfl
@[simp] theorem setPC_sp (w : Word) (s : State) : (s.setPC w).sp = s.sp := rfl
@[simp] theorem setPC_p (w : Word) (s : State) : (s.setPC w).p = s.p := rfl
@[simp] theorem setPC_pc (w : Word) (s : State) : (s.setPC w).pc = w := rfl
@[simp] theorem setPC_cycles (w : Word) (s : State) : (s.setPC w).cycles = s.cycles := rfl
@[simp] theorem setPC_nmiPending (w : Word) (s : State) : (s.setPC w).nmiPending = s.nmiPending := rfl
@[simp] theorem setPC_nmiPrev (w : Word) (s : State) : (s.setPC w).nmiPrev = s.nmiPrev := rfl
@[simp] theorem setPC_irqLine (w : Word) (s : State) : (s.setPC w).irqLine = s.irqLine := rfl
@[simp] theorem setPC_halted (w : Word) (s : State) : (s.setPC w).halted = s.halted := rfl
@[simp] theorem setPC_dmaPage (w : Word) (s : State) : (s.setPC w).dmaPage = s.dmaPage := rfl
@[simp] theorem setPC_ram (w : Word) (s : State) : (s.setPC w).ram = s.ram := rfl
@[simp] theorem setPC_cart (w : Word) (s : State) : (s.setPC w).cart = s.cart := rfl
@[simp] theorem setPC_env (w : Word) (s : State) : (s.setPC w).env = s.env := rfl
@[simp] theorem setPC_out (w : Word) (s : State) : (s.setPC w).out = s.out := rfl

/-! ### `setCycles` -/

@[simp] theorem setCycles_a (c : BitVec 64) (s : State) : (s.setCycles c).a = s.a := rfl
@[simp] theorem setCycles_x (c : BitVec 64) (s : State) : (s.setCycles c).x = s.x := rfl
@[simp] theorem setCycles_y (c : BitVec 64) (s : State) : (s.setCycles c).y = s.y := rfl
@[simp] theorem setCycles_sp (c : BitVec 64) (s : State) : (s.setCycles c).sp = s.sp := rfl
@[simp] theorem setCycles_p (c : BitVec 64) (s : State) : (s.setCycles c).p = s.p := rfl
@[simp] theorem setCycles_pc (c : BitVec 64) (s : State) : (s.setCycles c).pc = s.pc := rfl
@[simp] theorem setCycles_cycles (c : BitVec 64) (s : State) : (s.setCycles c).cycles = c := rfl
@[simp] theorem setCycles_nmiPending (c : BitVec 64) (s : State) : (s.setCycles c).nmiPending = s.nmiPending := rfl
@[simp] theorem setCycles_nmiPrev (c : BitVec 64) (s : State) : (s.setCycles c).nmiPrev = s.nmiPrev := rfl
@[simp] theorem setCycles_irqLine (c : BitVec 64) (s : State) : (s.setCycles c).irqLine = s.irqLine := rfl
@[simp] theorem setCycles_halted (c : BitVec 64) (s : State) : (s.setCycles c).halted = s.halted := rfl
@[simp] theorem setCycles_dmaPage (c : BitVec 64) (s : State) : (s.setCycles c).dmaPage = s.dmaPage := rfl
@[simp] theorem setCycles_ram (c : BitVec 64) (s : State) : (s.setCycles c).ram = s.ram := rfl
@[simp] theorem setCycles_cart (c : BitVec 64) (s : State) : (s.setCycles c).cart = s.cart := rfl
@[simp] theorem setCycles_env (c : BitVec 64) (s : State) : (s.setCycles c).env = s.env := rfl
@[simp] theorem setCycles_out (c : BitVec 64) (s : State) : (s.setCycles c).out = s.out := rfl

/-! ### `setNmiPending` -/

@[simp] theorem setNmiPending_a (b : Bool) (s : State) : (s.setNmiPending b).a = s.a := rfl
@[simp] theorem setNmiPending_x (b : Bool) (s : State) : (s.setNmiPending b).x = s.x := rfl
@[simp] theorem setNmiPending_y (b : Bool) (s : State) : (s.setNmiPending b).y = s.y := rfl
@[simp] theorem setNmiPending_sp (b : Bool) (s : State) : (s.setNmiPending b).sp = s.sp := rfl
@[simp] theorem setNmiPending_p (b : Bool) (s : State) : (s.setNmiPending b).p = s.p := rfl
@[simp] theorem setNmiPending_pc (b : Bool) (s : State) : (s.setNmiPending b).pc = s.pc := rfl
@[simp] theorem setNmiPending_cycles (b : Bool) (s : State) : (s.setNmiPending b).cycles = s.cycles := rfl
@[simp] theorem setNmiPending_nmiPending (b : Bool) (s : State) : (s.setNmiPending b).nmiPending = b := rfl
@[simp] theorem setNmiPending_nmiPrev (b : Bool) (s : State) : (s.setNmiPending b).nmiPrev = s.nmiPrev := rfl
@[simp] theorem setNmiPending_irqLine (b : Bool) (s : State) : (s.setNmiPending b).irqLine = s.irqLine := rfl
@[simp] theorem setNmiPending_halted (b : Bool) (s : State) : (s.setNmiPending b).halted = s.halted := rfl
@[simp] theorem setNmiPending_dmaPage (b : Bool) (s : State) : (s.setNmiPending b).dmaPage = s.dmaPage := rfl
@[simp] theorem setNmiPending_ram (b : Bool) (s : State) : (s.setNmiPending b).ram = s.ram := rfl
@[simp] theorem setNmiPending_cart (b : Bool) (s : State) : (s.setNmiPending b).cart = s.cart := rfl
@[simp] theorem setNmiPending_env (b : Bool) (s : State) : (s.setNmiPending b).env = s.env := rfl
@[simp] theorem setNmiPending_out (b : Bool) (s : State) : (s.setNmiPending b).out = s.out := rfl

/-! ### `setNmiPrev` -/

@[simp] theorem setNmiPrev_a (b : Bool) (s : State) : (s.setNmiPrev b).a = s.a := rfl
@[simp] theorem setNmiPrev_x (b : Bool) (s : State) : (s.setNmiPrev b).x = s.x := rfl
@[simp] theorem setNmiPrev_y (b : Bool) (s : State) : (s.setNmiPrev b).y = s.y := rfl
@[simp] theorem setNmiPrev_sp (b : Bool) (s : State) : (s.setNmiPrev b).sp = s.sp := rfl
@[simp] theorem setNmiPrev_p (b : Bool) (s : State) : (s.setNmiPrev b).p = s.p := rfl
@[simp] theorem setNmiPrev_pc (b : Bool) (s : State) : (s.setNmiPrev b).pc = s.pc := rfl
@[simp] theorem setNmiPrev_cycles (b : Bool) (s : State) : (s.setNmiPrev b).cycles = s.cycles := rfl
@[simp] theorem setNmiPrev_nmiPending (b : Bool) (s : State) : (s.setNmiPrev b).nmiPending = s.nmiPending := rfl
@[simp] theorem setNmiPrev_nmiPrev (b : Bool) (s : State) : (s.setNmiPrev b).nmiPrev = b := rfl
@[simp] theorem setNmiPrev_irqLine (b : Bool) (s : State) : (s.setNmiPrev b).irqLine = s.irqLine := rfl
@[simp] theorem setNmiPrev_halted (b : Bool) (s : State) : (s.setNmiPrev b).halted = s.halted := rfl
@[simp] theorem setNmiPrev_dmaPage (b : Bool) (s : State) : (s.setNmiPrev b).dmaPage = s.dmaPage := rfl
@[simp] theorem setNmiPrev_ram (b : Bool) (s : State) : (s.setNmiPrev b).ram = s.ram := rfl
@[simp] theorem setNmiPrev_cart (b : Bool) (s : State) : (s.setNmiPrev b).cart = s.cart := rfl
@[simp] theorem setNmiPrev_env (b : Bool) (s : State) : (s.setNmiPrev b).env = s.env := rfl
@[simp] theorem setNmiPrev_out (b : Bool) (s : State) : (s.setNmiPrev b).out = s.out := rfl

/-! ### `setIrqLine` -/

@[simp] theorem setIrqLine_a (b : Bool) (s : State) : (s.setIrqLine b).a = s.a := rfl
@[simp] theorem setIrqLine_x (b : Bool) (s : State) : (s.setIrqLine b).x = s.x := rfl
@[simp] theorem setIrqLine_y (b : Bool) (s : State) : (s.setIrqLine b).y = s.y := rfl
@[simp] theorem setIrqLine_sp (b : Bool) (s : State) : (s.setIrqLine b).sp = s.sp := rfl
@[simp] theorem setIrqLine_p (b : Bool) (s : State) : (s.setIrqLine b).p = s.p := rfl
@[simp] theorem setIrqLine_pc (b : Bool) (s : State) : (s.setIrqLine b).pc = s.pc := rfl
@[simp] theorem setIrqLine_cycles (b : Bool) (s : State) : (s.setIrqLine b).cycles = s.cycles := rfl
@[simp] theorem setIrqLine_nmiPending (b : Bool) (s : State) : (s.setIrqLine b).nmiPending = s.nmiPending := rfl
@[simp] theorem setIrqLine_nmiPrev (b : Bool) (s : State) : (s.setIrqLine b).nmiPrev = s.nmiPrev := rfl
@[simp] theorem setIrqLine_irqLine (b : Bool) (s : State) : (s.setIrqLine b).irqLine = b := rfl
@[simp] theorem setIrqLine_halted (b : Bool) (s : State) : (s.setIrqLine b).halted = s.halted := rfl
@[simp] theorem setIrqLine_dmaPage (b : Bool) (s : State) : (s.setIrqLine b).dmaPage = s.dmaPage := rfl
@[simp] theorem setIrqLine_ram (b : Bool) (s : State) : (s.setIrqLine b).ram = s.ram := rfl
@[simp] theorem setIrqLine_cart (b : Bool) (s : State) : (s.setIrqLine b).cart = s.cart := rfl
@[simp] theorem setIrqLine_env (b : Bool) (s : State) : (s.setIrqLine b).env = s.env := rfl
@[simp] theorem setIrqLine_out (b : Bool) (s : State) : (s.setIrqLine b).out = s.out := rfl

/-! ### `setHalted` -/

@[simp] theorem setHalted_a (b : Bool) (s : State) : (s.setHalted b).a = s.a := rfl
@[simp] theorem setHalted_x (b : Bool) (s : State) : (s.setHalted b).x = s.x := rfl
@[simp] theorem setHalted_y (b : Bool) (s : State) : (s.setHalted b).y = s.y := rfl
@[simp] theorem setHalted_sp (b : Bool) (s : State) : (s.setHalted b).sp = s.sp := rfl
@[simp] theorem setHalted_p (b : Bool) (s : State) : (s.setHalted b).p = s.p := rfl
@[simp] theorem setHalted_pc (b : Bool) (s : State) : (s.setHalted b).pc = s.pc := rfl
@[simp] theorem setHalted_cycles (b : Bool) (s : State) : (s.setHalted b).cycles = s.cycles := rfl
@[simp] theorem setHalted_nmiPending (b : Bool) (s : State) : (s.setHalted b).nmiPending = s.nmiPending := rfl
@[simp] theorem setHalted_nmiPrev (b : Bool) (s : State) : (s.setHalted b).nmiPrev = s.nmiPrev := rfl
@[simp] theorem setHalted_irqLine (b : Bool) (s : State) : (s.setHalted b).irqLine = s.irqLine := rfl
@[simp] theorem setHalted_halted (b : Bool) (s : State) : (s.setHalted b).halted = b := rfl
@[simp] theorem setHalted_dmaPage (b : Bool) (s : State) : (s.setHalted b).dmaPage = s.dmaPage := rfl
@[simp] theorem setHalted_ram (b : Bool) (s : State) : (s.setHalted b).ram = s.ram := rfl
@[simp] theorem setHalted_cart (b : Bool) (s : State) : (s.setHalted b).cart = s.cart := rfl
@[simp] theorem setHalted_env (b : Bool) (s : State) : (s.setHalted b).env = s.env := rfl
@[simp] theorem setHalted_out (b : Bool) (s : State) : (s.setHalted b).out = s.out := rfl

/-! ### `setDmaPage` -/

@[simp] theorem setDmaPage_a (d : Option Byte) (s : State) : (s.setDmaPage d).a = s.a := rfl
@[simp] theorem setDmaPage_x (d : Option Byte) (s : State) : (s.setDmaPage d).x = s.x := rfl
@[simp] theorem setDmaPage_y (d : Option Byte) (s : State) : (s.setDmaPage d).y = s.y := rfl
@[simp] theorem setDmaPage_sp (d : Option Byte) (s : State) : (s.setDmaPage d).sp = s.sp := rfl
@[simp] theorem setDmaPage_p (d : Option Byte) (s : State) : (s.setDmaPage d).p = s.p := rfl
@[simp] theorem setDmaPage_pc (d : Option Byte) (s : State) : (s.setDmaPage d).pc = s.pc := rfl
@[simp] theorem setDmaPage_cycles (d : Option Byte) (s : State) : (s.setDmaPage d).cycles = s.cycles := rfl
@[simp] theorem setDmaPage_nmiPending (d : Option Byte) (s : State) : (s.setDmaPage d).nmiPending = s.nmiPending := rfl
@[simp] theorem setDmaPage_nmiPrev (d : Option Byte) (s : State) : (s.setDmaPage d).nmiPrev = s.nmiPrev := rfl
@[simp] theorem setDmaPage_irqLine (d : Option Byte) (s : State) : (s.setDmaPage d).irqLine = s.irqLine := rfl
@[simp] theorem setDmaPage_halted (d : Option Byte) (s : State) : (s.setDmaPage d).halted = s.halted := rfl
@[simp] theorem setDmaPage_dmaPage (d : Option Byte) (s : State) : (s.setDmaPage d).dmaPage = d := rfl
@[simp] theorem setDmaPage_ram (d : Option Byte) (s : State) : (s.setDmaPage d).ram = s.ram := rfl
@[simp] theorem setDmaPage_cart (d : Option Byte) (s : State) : (s.setDmaPage d).cart = s.cart := rfl
@[simp] theorem setDmaPage_env (d : Option Byte) (s : State) : (s.setDmaPage d).env = s.env := rfl
@[simp] theorem setDmaPage_out (d : Option Byte) (s : State) : (s.setDmaPage d).out = s.out := rfl

/-! ### `setRam` -/

@[simp] theorem setRam_a (m : Memory) (s : State) : (s.setRam m).a = s.a := rfl
@[simp] theorem setRam_x (m : Memory) (s : State) : (s.setRam m).x = s.x := rfl
@[simp] theorem setRam_y (m : Memory) (s : State) : (s.setRam m).y = s.y := rfl
@[simp] theorem setRam_sp (m : Memory) (s : State) : (s.setRam m).sp = s.sp := rfl
@[simp] theorem setRam_p (m : Memory) (s : State) : (s.setRam m).p = s.p := rfl
@[simp] theorem setRam_pc (m : Memory) (s : State) : (s.setRam m).pc = s.pc := rfl
@[simp] theorem setRam_cycles (m : Memory) (s : State) : (s.setRam m).cycles = s.cycles := rfl
@[simp] theorem setRam_nmiPending (m : Memory) (s : State) : (s.setRam m).nmiPending = s.nmiPending := rfl
@[simp] theorem setRam_nmiPrev (m : Memory) (s : State) : (s.setRam m).nmiPrev = s.nmiPrev := rfl
@[simp] theorem setRam_irqLine (m : Memory) (s : State) : (s.setRam m).irqLine = s.irqLine := rfl
@[simp] theorem setRam_halted (m : Memory) (s : State) : (s.setRam m).halted = s.halted := rfl
@[simp] theorem setRam_dmaPage (m : Memory) (s : State) : (s.setRam m).dmaPage = s.dmaPage := rfl
@[simp] theorem setRam_ram (m : Memory) (s : State) : (s.setRam m).ram = m := rfl
@[simp] theorem setRam_cart (m : Memory) (s : State) : (s.setRam m).cart = s.cart := rfl
@[simp] theorem setRam_env (m : Memory) (s : State) : (s.setRam m).env = s.env := rfl
@[simp] theorem setRam_out (m : Memory) (s : State) : (s.setRam m).out = s.out := rfl

/-! ### `setCart` -/

@[simp] theorem setCart_a (c : Cart) (s : State) : (s.setCart c).a = s.a := rfl
@[simp] theorem setCart_x (c : Cart) (s : State) : (s.setCart c).x = s.x := rfl
@[simp] theorem setCart_y (c : Cart) (s : State) : (s.setCart c).y = s.y := rfl
@[simp] theorem setCart_sp (c : Cart) (s : State) : (s.setCart c).sp = s.sp := rfl
@[simp] theorem setCart_p (c : Cart) (s : State) : (s.setCart c).p = s.p := rfl
@[simp] theorem setCart_pc (c : Cart) (s : State) : (s.setCart c).pc = s.pc := rfl
@[simp] theorem setCart_cycles (c : Cart) (s : State) : (s.setCart c).cycles = s.cycles := rfl
@[simp] theorem setCart_nmiPending (c : Cart) (s : State) : (s.setCart c).nmiPending = s.nmiPending := rfl
@[simp] theorem setCart_nmiPrev (c : Cart) (s : State) : (s.setCart c).nmiPrev = s.nmiPrev := rfl
@[simp] theorem setCart_irqLine (c : Cart) (s : State) : (s.setCart c).irqLine = s.irqLine := rfl
@[simp] theorem setCart_halted (c : Cart) (s : State) : (s.setCart c).halted = s.halted := rfl
@[simp] theorem setCart_dmaPage (c : Cart) (s : State) : (s.setCart c).dmaPage = s.dmaPage := rfl
@[simp] theorem setCart_ram (c : Cart) (s : State) : (s.setCart c).ram = s.ram := rfl
@[simp] theorem setCart_cart (c : Cart) (s : State) : (s.setCart c).cart = c := rfl
@[simp] theorem setCart_env (c : Cart) (s : State) : (s.setCart c).env = s.env := rfl
@[simp] theorem setCart_out (c : Cart) (s : State) : (s.setCart c).out = s.out := rfl

/-! ### `setEnv` -/

@[simp] theorem setEnv_a (e : Env) (s : State) : (s.setEnv e).a = s.a := rfl
@[simp] theorem setEnv_x (e : Env) (s : State) : (s.setEnv e).x = s.x := rfl
@[simp] theorem setEnv_y (e : Env) (s : State) : (s.setEnv e).y = s.y := rfl
@[simp] theorem setEnv_sp (e : Env) (s : State) : (s.setEnv e).sp = s.sp := rfl
@[simp] theorem setEnv_p (e : Env) (s : State) : (s.setEnv e).p = s.p := rfl
@[simp] theorem setEnv_pc (e : Env) (s : State) : (s.setEnv e).pc = s.pc := rfl
@[simp] theorem setEnv_cycles (e : Env) (s : State) : (s.setEnv e).cycles = s.cycles := rfl
@[simp] theorem setEnv_nmiPending (e : Env) (s : State) : (s.setEnv e).nmiPending = s.nmiPending := rfl
@[simp] theorem setEnv_nmiPrev (e : Env) (s : State) : (s.setEnv e).nmiPrev = s.nmiPrev := rfl
@[simp] theorem setEnv_irqLine (e : Env) (s : State) : (s.setEnv e).irqLine = s.irqLine := rfl
@[simp] theorem setEnv_halted (e : Env) (s : State) : (s.setEnv e).halted = s.halted := rfl
@[simp] theorem setEnv_dmaPage (e : Env) (s : State) : (s.setEnv e).dmaPage = s.dmaPage := rfl
@[simp] theorem setEnv_ram (e : Env) (s : State) : (s.setEnv e).ram = s.ram := rfl
@[simp] theorem setEnv_cart (e : Env) (s : State) : (s.setEnv e).cart = s.cart := rfl
@[simp] theorem setEnv_env (e : Env) (s : State) : (s.setEnv e).env = e := rfl
@[simp] theorem setEnv_out (e : Env) (s : State) : (s.setEnv e).out = s.out := rfl

/-! ### `setOut` -/

@[simp] theorem setOut_a (o : Out) (s : State) : (s.setOut o).a = s.a := rfl
@[simp] theorem setOut_x (o : Out) (s : State) : (s.setOut o).x = s.x := rfl
@[simp] theorem setOut_y (o : Out) (s : State) : (s.setOut o).y = s.y := rfl
@[simp] theorem setOut_sp (o : Out) (s : State) : (s.setOut o).sp = s.sp := rfl
@[simp] theorem setOut_p (o : Out) (s : State) : (s.setOut o).p = s.p := rfl
@[simp] theorem setOut_pc (o : Out) (s : State) : (s.setOut o).pc = s.pc := rfl
@[simp] theorem setOut_cycles (o : Out) (s : State) : (s.setOut o).cycles = s.cycles := rfl
@[simp] theorem setOut_nmiPending (o : Out) (s : State) : (s.setOut o).nmiPending = s.nmiPending := rfl
@[simp] theorem setOut_nmiPrev (o : Out) (s : State) : (s.setOut o).nmiPrev = s.nmiPrev := rfl
@[simp] theorem setOut_irqLine (o : Out) (s : State) : (s.setOut o).irqLine = s.irqLine := rfl
@[simp] theorem setOut_halted (o : Out) (s : State) : (s.setOut o).halted = s.halted := rfl
@[simp] theorem setOut_dmaPage (o : Out) (s : State) : (s.setOut o).dmaPage = s.dmaPage := rfl
@[simp] theorem setOut_ram (o : Out) (s : State) : (s.setOut o).ram = s.ram := rfl
@[simp] theorem setOut_cart (o : Out) (s : State) : (s.setOut o).cart = s.cart := rfl
@[simp] theorem setOut_env (o : Out) (s : State) : (s.setOut o).env = s.env := rfl
@[simp] theorem setOut_out (o : Out) (s : State) : (s.setOut o).out = o := rfl

/-! ### `logBus` -/

@[simp] theorem logBus_a (t : BusTxn) (s : State) : (s.logBus t).a = s.a := rfl
@[simp] theorem logBus_x (t : BusTxn) (s : State) : (s.logBus t).x = s.x := rfl
@[simp] theorem logBus_y (t : BusTxn) (s : State) : (s.logBus t).y = s.y := rfl
@[simp] theorem logBus_sp (t : BusTxn) (s : State) : (s.logBus t).sp = s.sp := rfl
@[simp] theorem logBus_p (t : BusTxn) (s : State) : (s.logBus t).p = s.p := rfl
@[simp] theorem logBus_pc (t : BusTxn) (s : State) : (s.logBus t).pc = s.pc := rfl
@[simp] theorem logBus_cycles (t : BusTxn) (s : State) : (s.logBus t).cycles = s.cycles := rfl
@[simp] theorem logBus_nmiPending (t : BusTxn) (s : State) : (s.logBus t).nmiPending = s.nmiPending := rfl
@[simp] theorem logBus_nmiPrev (t : BusTxn) (s : State) : (s.logBus t).nmiPrev = s.nmiPrev := rfl
@[simp] theorem logBus_irqLine (t : BusTxn) (s : State) : (s.logBus t).irqLine = s.irqLine := rfl
@[simp] theorem logBus_halted (t : BusTxn) (s : State) : (s.logBus t).halted = s.halted := rfl
@[simp] theorem logBus_dmaPage (t : BusTxn) (s : State) : (s.logBus t).dmaPage = s.dmaPage := rfl
@[simp] theorem logBus_ram (t : BusTxn) (s : State) : (s.logBus t).ram = s.ram := rfl
@[simp] theorem logBus_cart (t : BusTxn) (s : State) : (s.logBus t).cart = s.cart := rfl
@[simp] theorem logBus_env (t : BusTxn) (s : State) : (s.logBus t).env = s.env := rfl
@[simp] theorem logBus_bus (t : BusTxn) (s : State) : (s.logBus t).out.bus = t :: s.out.bus := rfl
@[simp] theorem logBus_ports (t : BusTxn) (s : State) : (s.logBus t).out.ports = s.out.ports := rfl
@[simp] theorem logBus_returned (t : BusTxn) (s : State) : (s.logBus t).out.returned = s.out.returned := rfl

/-! ### `logPort` -/

@[simp] theorem logPort_a (c : PortCall) (s : State) : (s.logPort c).a = s.a := rfl
@[simp] theorem logPort_x (c : PortCall) (s : State) : (s.logPort c).x = s.x := rfl
@[simp] theorem logPort_y (c : PortCall) (s : State) : (s.logPort c).y = s.y := rfl
@[simp] theorem logPort_sp (c : PortCall) (s : State) : (s.logPort c).sp = s.sp := rfl
@[simp] theorem logPort_p (c : PortCall) (s : State) : (s.logPort c).p = s.p := rfl
@[simp] theorem logPort_pc (c : PortCall) (s : State) : (s.logPort c).pc = s.pc := rfl
@[simp] theorem logPort_cycles (c : PortCall) (s : State) : (s.logPort c).cycles = s.cycles := rfl
@[simp] theorem logPort_nmiPending (c : PortCall) (s : State) : (s.logPort c).nmiPending = s.nmiPending := rfl
@[simp] theorem logPort_nmiPrev (c : PortCall) (s : State) : (s.logPort c).nmiPrev = s.nmiPrev := rfl
@[simp] theorem logPort_irqLine (c : PortCall) (s : State) : (s.logPort c).irqLine = s.irqLine := rfl
@[simp] theorem logPort_halted (c : PortCall) (s : State) : (s.logPort c).halted = s.halted := rfl
@[simp] theorem logPort_dmaPage (c : PortCall) (s : State) : (s.logPort c).dmaPage = s.dmaPage := rfl
@[simp] theorem logPort_ram (c : PortCall) (s : State) : (s.logPort c).ram = s.ram := rfl
@[simp] theorem logPort_cart (c : PortCall) (s : State) : (s.logPort c).cart = s.cart := rfl
@[simp] theorem logPort_env (c : PortCall) (s : State) : (s.logPort c).env = s.env := rfl
@[simp] theorem logPort_bus (c : PortCall) (s : State) : (s.logPort c).out.bus = s.out.bus := rfl
@[simp] theorem logPort_ports (c : PortCall) (s : State) : (s.logPort c).out.ports = c :: s.out.ports := rfl
@[simp] theorem logPort_returned (c : PortCall) (s : State) : (s.logPort c).out.returned = s.out.returned := rfl

/-! ### `setReturned` -/

@[simp] theorem setReturned_a (n : Option Nat) (s : State) : (s.setReturned n).a = s.a := rfl
@[simp] theorem setReturned_x (n : Option Nat) (s : State) : (s.setReturned n).x = s.x := rfl
@[simp] theorem setReturned_y (n : Option Nat) (s : State) : (s.setReturned n).y = s.y := rfl
@[simp] theorem setReturned_sp (n : Option Nat) (s : State) : (s.setReturned n).sp = s.sp := rfl
@[simp] theorem setReturned_p (n : Option Nat) (s : State) : (s.setReturned n).p = s.p := rfl
@[simp] theorem setReturned_pc (n : Option Nat) (s : State) : (s.setReturned n).pc = s.pc := rfl
@[simp] theorem setReturned_cycles (n : Option Nat) (s : State) : (s.setReturned n).cycles = s.cycles := rfl
@[simp] theorem setReturned_nmiPending (n : Option Nat) (s : State) : (s.setReturned n).nmiPending = s.nmiPending := rfl
@[simp] theorem setReturned_nmiPrev (n : Option Nat) (s : State) : (s.setReturned n).nmiPrev = s.nmiPrev := rfl
@[simp] theorem setReturned_irqLine (n : Option Nat) (s : State) : (s.setReturned n).irqLine = s.irqLine := rfl
@[simp] theorem setReturned_halted (n : Option Nat) (s : State) : (s.setReturned n).halted = s.halted := rfl
@[simp] theorem setReturned_dmaPage (n : Option Nat) (s : State) : (s.setReturned n).dmaPage = s.dmaPage := rfl
@[simp] theorem setReturned_ram (n : Option Nat) (s : State) : (s.setReturned n).ram = s.ram := rfl
@[simp] theorem setReturned_cart (n : Option Nat) (s : State) : (s.setReturned n).cart = s.cart := rfl
@[simp] theorem setReturned_env (n : Option Nat) (s : State) : (s.setReturned n).env = s.env := rfl
@[simp] theorem setReturned_bus (n : Option Nat) (s : State) : (s.setReturned n).out.bus = s.out.bus := rfl
@[simp] theorem setReturned_ports (n : Option Nat) (s : State) : (s.setReturned n).out.ports = s.out.ports := rfl
@[simp] theorem setReturned_returned (n : Option Nat) (s : State) : (s.setReturned n).out.returned = n := rfl

end Sys2Proof.Machine.State
end

