-- ==== Sys2Proof/Laws/Ops.lean ====
section
/-! SUPPORT. What each shared operation of Machine/Ops.lean does, field by field, so that no later proof unfolds one. -/

namespace Sys2Proof.Machine

/-! ## Reading the bus -/

theorem portRead_eq (call : Byte → PortCall) (s : State) : portRead call s = (portAnswer s,
    (s.setEnv { s.env with portAnswers := s.env.portAnswers.tail, portReads := s.env.portReads + 1 }).logPort
      (call (portAnswer s))) := rfl

@[simp] theorem busRead_a (a : Word) (s : State) : (busRead a s).2.a = s.a := by
  unfold busRead readFrom; cases readTarget a <;> rfl

@[simp] theorem busRead_x (a : Word) (s : State) : (busRead a s).2.x = s.x := by
  unfold busRead readFrom; cases readTarget a <;> rfl

@[simp] theorem busRead_y (a : Word) (s : State) : (busRead a s).2.y = s.y := by
  unfold busRead readFrom; cases readTarget a <;> rfl

@[simp] theorem busRead_sp (a : Word) (s : State) : (busRead a s).2.sp = s.sp := by
  unfold busRead readFrom; cases readTarget a <;> rfl

@[simp] theorem busRead_p (a : Word) (s : State) : (busRead a s).2.p = s.p := by
  unfold busRead readFrom; cases readTarget a <;> rfl

@[simp] theorem busRead_pc (a : Word) (s : State) : (busRead a s).2.pc = s.pc := by
  unfold busRead readFrom; cases readTarget a <;> rfl

@[simp] theorem busRead_cycles (a : Word) (s : State) : (busRead a s).2.cycles = s.cycles := by
  unfold busRead readFrom; cases readTarget a <;> rfl

@[simp] theorem busRead_nmiPending (a : Word) (s : State) : (busRead a s).2.nmiPending = s.nmiPending := by
  unfold busRead readFrom; cases readTarget a <;> rfl

@[simp] theorem busRead_nmiPrev (a : Word) (s : State) : (busRead a s).2.nmiPrev = s.nmiPrev := by
  unfold busRead readFrom; cases readTarget a <;> rfl

@[simp] theorem busRead_irqLine (a : Word) (s : State) : (busRead a s).2.irqLine = s.irqLine := by
  unfold busRead readFrom; cases readTarget a <;> rfl

@[simp] theorem busRead_halted (a : Word) (s : State) : (busRead a s).2.halted = s.halted := by
  unfold busRead readFrom; cases readTarget a <;> rfl

@[simp] theorem busRead_dmaPage (a : Word) (s : State) : (busRead a s).2.dmaPage = s.dmaPage := by
  unfold busRead readFrom; cases readTarget a <;> rfl

@[simp] theorem busRead_ram (a : Word) (s : State) : (busRead a s).2.ram = s.ram := by
  unfold busRead readFrom; cases readTarget a <;> rfl

@[simp] theorem busRead_cart (a : Word) (s : State) : (busRead a s).2.cart = s.cart := by
  unfold busRead readFrom; cases readTarget a <;> rfl

@[simp] theorem busRead_nmiLine (a : Word) (s : State) : (busRead a s).2.env.nmiLine = s.env.nmiLine := by
  unfold busRead readFrom; cases readTarget a <;> rfl

@[simp] theorem busRead_nmiPlan (a : Word) (s : State) : (busRead a s).2.env.nmiPlan = s.env.nmiPlan := by
  unfold busRead readFrom; cases readTarget a <;> rfl

@[simp] theorem busRead_irqPlan (a : Word) (s : State) : (busRead a s).2.env.irqPlan = s.env.irqPlan := by
  unfold busRead readFrom; cases readTarget a <;> rfl

@[simp] theorem busRead_bus (a : Word) (s : State) : (busRead a s).2.out.bus = .read a (busRead a s).1 :: s.out.bus := by
  unfold busRead readFrom; cases readTarget a <;> rfl

@[simp] theorem busRead_returned (a : Word) (s : State) : (busRead a s).2.out.returned = s.out.returned := by
  unfold busRead readFrom; cases readTarget a <;> rfl

/-- A read that is not of a device port leaves the environment and the ports alone. -/
theorem busRead_quiet (a : Word) (s : State) (h : peek a s ≠ none) :
    (busRead a s).2.env = s.env ∧ (busRead a s).2.out.ports = s.out.ports ∧ peek a s = some (busRead a s).1 := by
  unfold busRead readFrom; unfold peek at *; cases ht : readTarget a <;> simp_all

/-! ## Peeking -/

theorem peek_congr {s t : State} (hr : t.ram = s.ram) (hc : t.cart = s.cart) (a : Word) : peek a t = peek a s := by
  unfold peek; rw [hr, hc]

theorem ramCell_eq (a : Word) : ramCell a = a.toNat % 0x800 := by
  simp only [ramCell, BitVec.toNat_and]
  exact Nat.and_two_pow_sub_one_eq_mod a.toNat 11

theorem readTarget_ram (a : Word) (h : a.toNat < 0x2000) : readTarget a = .ram (a.toNat % 0x800) := by
  simp [readTarget, h, ramCell_eq]

theorem readTarget_cartridge (a : Word) (h : 0x4020 ≤ a.toNat) : readTarget a = .cartridge := by
  unfold readTarget
  iterate 7 rw [if_neg (by omega)]

theorem peek_ram (a : Word) (s : State) (h : a.toNat < 0x2000) : peek a s = some (s.ram.read (a.toNat % 0x800)) := by
  simp [peek, readTarget_ram a h]

theorem peek_cartridge (a : Word) (s : State) (h : 0x4020 ≤ a.toNat) : peek a s = some (s.cart.cpuRead a) := by
  simp [peek, readTarget_cartridge a h]

theorem busRead_at_ram (a : Word) (s : State) (h : a.toNat < 0x2000) :
    busRead a s = (s.ram.read (a.toNat % 0x800), s.logBus (.read a (s.ram.read (a.toNat % 0x800)))) := by
  simp [busRead, readFrom, readTarget_ram a h]

theorem busRead_at_cartridge (a : Word) (s : State) (h : 0x4020 ≤ a.toNat) :
    busRead a s = (s.cart.cpuRead a, s.logBus (.read a (s.cart.cpuRead a))) := by
  simp [busRead, readFrom, readTarget_cartridge a h]

/-- What a read changes: the inputs used up and the outputs, and nothing else (spec/20_memory.md R66). -/
theorem busRead_keeps (a : Word) (s : State) :
    (busRead a s).2 = { s with env := (busRead a s).2.env, out := (busRead a s).2.out } := by
  simp only [busRead, readFrom]; cases readTarget a <;> rfl

theorem readTarget_openBus (a : Word) (h : 0x4000 ≤ a.toNat ∧ a.toNat < 0x4015 ∨ 0x4018 ≤ a.toNat ∧ a.toNat < 0x4020) :
    readTarget a = .openBus := by
  unfold readTarget
  rw [if_neg (by omega), if_neg (by omega)]
  rcases h with h | h
  · rw [if_pos h.2]
  · iterate 4 rw [if_neg (by omega)]
    rw [if_pos h.2]

theorem busRead_at_openBus (a : Word) (s : State)
    (h : 0x4000 ≤ a.toNat ∧ a.toNat < 0x4015 ∨ 0x4018 ≤ a.toNat ∧ a.toNat < 0x4020) :
    busRead a s = (Config.openBusValue, s.logBus (.read a Config.openBusValue)) := by
  simp only [busRead, readFrom, readTarget_openBus a h]

/-! ## Writing the bus -/

theorem writeTarget_ram (a : Word) (h : a.toNat < 0x2000) : writeTarget a = .ram (a.toNat % 0x800) := by
  simp [writeTarget, h, ramCell_eq]

theorem writeTarget_cartridge (a : Word) (h : 0x4020 ≤ a.toNat) : writeTarget a = .cartridge := by
  unfold writeTarget
  iterate 8 rw [if_neg (by omega)]

@[simp] theorem busWrite_a (a : Word) (v : Byte) (s : State) : (busWrite a v s).a = s.a := by
  unfold busWrite writeTo; cases writeTarget a <;> rfl

@[simp] theorem busWrite_x (a : Word) (v : Byte) (s : State) : (busWrite a v s).x = s.x := by
  unfold busWrite writeTo; cases writeTarget a <;> rfl

@[simp] theorem busWrite_y (a : Word) (v : Byte) (s : State) : (busWrite a v s).y = s.y := by
  unfold busWrite writeTo; cases writeTarget a <;> rfl

@[simp] theorem busWrite_sp (a : Word) (v : Byte) (s : State) : (busWrite a v s).sp = s.sp := by
  unfold busWrite writeTo; cases writeTarget a <;> rfl

@[simp] theorem busWrite_p (a : Word) (v : Byte) (s : State) : (busWrite a v s).p = s.p := by
  unfold busWrite writeTo; cases writeTarget a <;> rfl

@[simp] theorem busWrite_pc (a : Word) (v : Byte) (s : State) : (busWrite a v s).pc = s.pc := by
  unfold busWrite writeTo; cases writeTarget a <;> rfl

@[simp] theorem busWrite_cycles (a : Word) (v : Byte) (s : State) : (busWrite a v s).cycles = s.cycles := by
  unfold busWrite writeTo; cases writeTarget a <;> rfl

@[simp] theorem busWrite_nmiPending (a : Word) (v : Byte) (s : State) : (busWrite a v s).nmiPending = s.nmiPending := by
  unfold busWrite writeTo; cases writeTarget a <;> rfl

@[simp] theorem busWrite_nmiPrev (a : Word) (v : Byte) (s : State) : (busWrite a v s).nmiPrev = s.nmiPrev := by
  unfold busWrite writeTo; cases writeTarget a <;> rfl

@[simp] theorem busWrite_irqLine (a : Word) (v : Byte) (s : State) : (busWrite a v s).irqLine = s.irqLine := by
  unfold busWrite writeTo; cases writeTarget a <;> rfl

@[simp] theorem busWrite_halted (a : Word) (v : Byte) (s : State) : (busWrite a v s).halted = s.halted := by
  unfold busWrite writeTo; cases writeTarget a <;> rfl

@[simp] theorem busWrite_env (a : Word) (v : Byte) (s : State) : (busWrite a v s).env = s.env := by
  unfold busWrite writeTo; cases writeTarget a <;> rfl

@[simp] theorem busWrite_bus (a : Word) (v : Byte) (s : State) : (busWrite a v s).out.bus = .write a v :: s.out.bus := by
  unfold busWrite writeTo; cases writeTarget a <;> rfl

@[simp] theorem busWrite_returned (a : Word) (v : Byte) (s : State) :
    (busWrite a v s).out.returned = s.out.returned := by
  unfold busWrite writeTo; cases writeTarget a <;> rfl

theorem busWrite_at_ram (a : Word) (v : Byte) (s : State) (h : a.toNat < 0x2000) :
    busWrite a v s = (s.setRam (s.ram.write (a.toNat % 0x800) v)).logBus (.write a v) := by
  simp [busWrite, writeTo, writeTarget_ram a h]

theorem busWrite_at_cartridge (a : Word) (v : Byte) (s : State) (h : 0x4020 ≤ a.toNat) :
    busWrite a v s = (s.setCart (s.cart.cpuWrite a v)).logBus (.write a v) := by
  simp [busWrite, writeTo, writeTarget_cartridge a h]

/-- A write outside RAM leaves RAM alone. -/
theorem busWrite_ram_of_le (a : Word) (v : Byte) (s : State) (h : 0x2000 ≤ a.toNat) : (busWrite a v s).ram = s.ram := by
  unfold busWrite writeTo
  cases ht : writeTarget a with
  | ram cell =>
    unfold writeTarget at ht
    rw [if_neg (by omega)] at ht
    split_ifs at ht
  | _ => rfl

/-- A write below the cartridge leaves it alone. -/
theorem busWrite_cart_of_lt (a : Word) (v : Byte) (s : State) (h : a.toNat < 0x4020) : (busWrite a v s).cart = s.cart := by
  unfold busWrite writeTo
  cases ht : writeTarget a with
  | cartridge =>
    unfold writeTarget at ht
    split_ifs at ht
  | _ => rfl

theorem writeTarget_oamDma (a : Word) : writeTarget a = .oamDma ↔ a = 0x4014 := by
  constructor
  · intro h
    unfold writeTarget at h
    split_ifs at h with h1 h2 h3 h4
    exact BitVec.eq_of_toNat_eq h4
  · rintro rfl; rfl

/-- `dma_page` after a write: set by a write to $4014 alone. -/
theorem busWrite_dmaPage (a : Word) (v : Byte) (s : State) :
    (busWrite a v s).dmaPage = if a = 0x4014 then some v else s.dmaPage := by
  unfold busWrite writeTo
  cases ht : writeTarget a <;>
    first
    | (rw [if_pos ((writeTarget_oamDma a).1 ht)]; rfl)
    | (rw [if_neg (fun e => by rw [(writeTarget_oamDma a).2 e] at ht; cases ht)]; rfl)

/-! ## The stack -/

theorem stackAddr_toNat (sp : Byte) : (stackAddr sp).toNat = 0x100 + sp.toNat := by
  revert sp; decide

theorem push_eq (v : Byte) (s : State) :
    push v s = ((s.setRam (s.ram.write (0x100 + s.sp.toNat) v)).logBus (.write (stackAddr s.sp) v)).setSP (s.sp - 1) := by
  have h := stackAddr_toNat s.sp
  have hb := s.sp.isLt
  simp only [push]
  rw [busWrite_at_ram _ _ _ (by omega), show (stackAddr s.sp).toNat % 0x800 = 0x100 + s.sp.toNat by omega]
  rfl

theorem pull_eq (s : State) :
    pull s = (s.ram.read (0x100 + (s.sp + 1).toNat),
      (s.setSP (s.sp + 1)).logBus (.read (stackAddr (s.sp + 1)) (s.ram.read (0x100 + (s.sp + 1).toNat)))) := by
  have h := stackAddr_toNat (s.sp + 1)
  have hb := (s.sp + 1).isLt
  simp only [pull, State.setSP_sp]
  rw [busRead_at_ram _ _ (by omega), show (stackAddr (s.sp + 1)).toNat % 0x800 = 0x100 + (s.sp + 1).toNat by omega]
  rfl

@[simp] theorem push_a (v : Byte) (s : State) : (push v s).a = s.a := by rw [push_eq]; rfl

@[simp] theorem push_x (v : Byte) (s : State) : (push v s).x = s.x := by rw [push_eq]; rfl

@[simp] theorem push_y (v : Byte) (s : State) : (push v s).y = s.y := by rw [push_eq]; rfl

@[simp] theorem push_p (v : Byte) (s : State) : (push v s).p = s.p := by rw [push_eq]; rfl

@[simp] theorem push_pc (v : Byte) (s : State) : (push v s).pc = s.pc := by rw [push_eq]; rfl

@[simp] theorem push_cycles (v : Byte) (s : State) : (push v s).cycles = s.cycles := by rw [push_eq]; rfl

@[simp] theorem push_nmiPending (v : Byte) (s : State) : (push v s).nmiPending = s.nmiPending := by rw [push_eq]; rfl

@[simp] theorem push_nmiPrev (v : Byte) (s : State) : (push v s).nmiPrev = s.nmiPrev := by rw [push_eq]; rfl

@[simp] theorem push_irqLine (v : Byte) (s : State) : (push v s).irqLine = s.irqLine := by rw [push_eq]; rfl

@[simp] theorem push_halted (v : Byte) (s : State) : (push v s).halted = s.halted := by rw [push_eq]; rfl

@[simp] theorem push_dmaPage (v : Byte) (s : State) : (push v s).dmaPage = s.dmaPage := by rw [push_eq]; rfl

@[simp] theorem push_cart (v : Byte) (s : State) : (push v s).cart = s.cart := by rw [push_eq]; rfl

@[simp] theorem push_env (v : Byte) (s : State) : (push v s).env = s.env := by rw [push_eq]; rfl

@[simp] theorem push_sp (v : Byte) (s : State) : (push v s).sp = s.sp - 1 := by rw [push_eq]; rfl

@[simp] theorem push_ram (v : Byte) (s : State) : (push v s).ram = s.ram.write (0x100 + s.sp.toNat) v := by
  rw [push_eq]; rfl

@[simp] theorem push_bus (v : Byte) (s : State) : (push v s).out.bus = .write (stackAddr s.sp) v :: s.out.bus := by
  rw [push_eq]; rfl

@[simp] theorem push_ports (v : Byte) (s : State) : (push v s).out.ports = s.out.ports := by rw [push_eq]; rfl

@[simp] theorem push_returned (v : Byte) (s : State) : (push v s).out.returned = s.out.returned := by rw [push_eq]; rfl

@[simp] theorem pull_a (s : State) : (pull s).2.a = s.a := by rw [pull_eq]; rfl

@[simp] theorem pull_x (s : State) : (pull s).2.x = s.x := by rw [pull_eq]; rfl

@[simp] theorem pull_y (s : State) : (pull s).2.y = s.y := by rw [pull_eq]; rfl

@[simp] theorem pull_p (s : State) : (pull s).2.p = s.p := by rw [pull_eq]; rfl

@[simp] theorem pull_pc (s : State) : (pull s).2.pc = s.pc := by rw [pull_eq]; rfl

@[simp] theorem pull_cycles (s : State) : (pull s).2.cycles = s.cycles := by rw [pull_eq]; rfl

@[simp] theorem pull_nmiPending (s : State) : (pull s).2.nmiPending = s.nmiPending := by rw [pull_eq]; rfl

@[simp] theorem pull_nmiPrev (s : State) : (pull s).2.nmiPrev = s.nmiPrev := by rw [pull_eq]; rfl

@[simp] theorem pull_irqLine (s : State) : (pull s).2.irqLine = s.irqLine := by rw [pull_eq]; rfl

@[simp] theorem pull_halted (s : State) : (pull s).2.halted = s.halted := by rw [pull_eq]; rfl

@[simp] theorem pull_dmaPage (s : State) : (pull s).2.dmaPage = s.dmaPage := by rw [pull_eq]; rfl

@[simp] theorem pull_cart (s : State) : (pull s).2.cart = s.cart := by rw [pull_eq]; rfl

@[simp] theorem pull_env (s : State) : (pull s).2.env = s.env := by rw [pull_eq]; rfl

@[simp] theorem pull_ram (s : State) : (pull s).2.ram = s.ram := by rw [pull_eq]; rfl

@[simp] theorem pull_value (s : State) : (pull s).1 = s.ram.read (0x100 + (s.sp + 1).toNat) := by rw [pull_eq]

@[simp] theorem pull_sp (s : State) : (pull s).2.sp = s.sp + 1 := by rw [pull_eq]; rfl

@[simp] theorem pull_bus (s : State) :
    (pull s).2.out.bus = .read (stackAddr (s.sp + 1)) (s.ram.read (0x100 + (s.sp + 1).toNat)) :: s.out.bus := by
  rw [pull_eq]; rfl

@[simp] theorem pull_ports (s : State) : (pull s).2.out.ports = s.out.ports := by rw [pull_eq]; rfl

@[simp] theorem pull_returned (s : State) : (pull s).2.out.returned = s.out.returned := by rw [pull_eq]; rfl

theorem pushWord_eq (w : Word) (s : State) : pushWord w s = push (loByte w) (push (hiByte w) s) := rfl

theorem pullWord_eq (s : State) : pullWord s = (wordOf (pull (pull s).2).1 (pull s).1, (pull (pull s).2).2) := rfl

/-! ## Pairs of reads -/

theorem readPair_eq (lo hi : Word) (s : State) :
    readPair lo hi s = (wordOf (busRead hi (busRead lo s).2).1 (busRead lo s).1, (busRead hi (busRead lo s).2).2) := rfl

theorem read16_eq (a : Word) (s : State) : read16 a s = readPair a (a + 1) s := rfl

/-- A pair of reads through the cartridge. -/
theorem readPair_cartridge (lo hi : Word) (s : State) (hl : 0x4020 ≤ lo.toNat) (hh : 0x4020 ≤ hi.toNat) :
    readPair lo hi s = (wordOf (s.cart.cpuRead hi) (s.cart.cpuRead lo),
      (s.logBus (.read lo (s.cart.cpuRead lo))).logBus (.read hi (s.cart.cpuRead hi))) := by
  rw [readPair_eq, busRead_at_cartridge lo s hl, busRead_at_cartridge hi _ hh]; rfl

/-! ## The NMI line and the IRQ line -/

@[simp] theorem pollNmi_a (s : State) : (pollNmi s).a = s.a := rfl

@[simp] theorem pollNmi_x (s : State) : (pollNmi s).x = s.x := rfl

@[simp] theorem pollNmi_y (s : State) : (pollNmi s).y = s.y := rfl

@[simp] theorem pollNmi_sp (s : State) : (pollNmi s).sp = s.sp := rfl

@[simp] theorem pollNmi_p (s : State) : (pollNmi s).p = s.p := rfl

@[simp] theorem pollNmi_pc (s : State) : (pollNmi s).pc = s.pc := rfl

@[simp] theorem pollNmi_cycles (s : State) : (pollNmi s).cycles = s.cycles := rfl

@[simp] theorem pollNmi_irqLine (s : State) : (pollNmi s).irqLine = s.irqLine := rfl

@[simp] theorem pollNmi_halted (s : State) : (pollNmi s).halted = s.halted := rfl

@[simp] theorem pollNmi_dmaPage (s : State) : (pollNmi s).dmaPage = s.dmaPage := rfl

@[simp] theorem pollNmi_ram (s : State) : (pollNmi s).ram = s.ram := rfl

@[simp] theorem pollNmi_cart (s : State) : (pollNmi s).cart = s.cart := rfl

@[simp] theorem pollNmi_nmiPending (s : State) :
    (pollNmi s).nmiPending = (s.nmiPending || (nmiLevel s && !s.nmiPrev)) := rfl

@[simp] theorem pollNmi_nmiPrev (s : State) : (pollNmi s).nmiPrev = nmiLevel s := rfl

@[simp] theorem pollNmi_env (s : State) : (pollNmi s).env = { s.env with nmiPlan := s.env.nmiPlan.tail } := rfl

@[simp] theorem pollNmi_bus (s : State) : (pollNmi s).out.bus = s.out.bus := rfl

@[simp] theorem pollNmi_ports (s : State) : (pollNmi s).out.ports = .pollNmi (nmiLevel s) :: s.out.ports := rfl

@[simp] theorem pollNmi_returned (s : State) : (pollNmi s).out.returned = s.out.returned := rfl

theorem nmiLevel_congr {s t : State} (hl : t.env.nmiLine = s.env.nmiLine) (hp : t.env.nmiPlan = s.env.nmiPlan) :
    nmiLevel t = nmiLevel s := by
  unfold nmiLevel; rw [hl, hp]

@[simp] theorem nextIrq_a (s : State) : (nextIrq s).a = s.a := by
  unfold nextIrq; cases s.env.irqPlan <;> rfl

@[simp] theorem nextIrq_x (s : State) : (nextIrq s).x = s.x := by
  unfold nextIrq; cases s.env.irqPlan <;> rfl

@[simp] theorem nextIrq_y (s : State) : (nextIrq s).y = s.y := by
  unfold nextIrq; cases s.env.irqPlan <;> rfl

@[simp] theorem nextIrq_sp (s : State) : (nextIrq s).sp = s.sp := by
  unfold nextIrq; cases s.env.irqPlan <;> rfl

@[simp] theorem nextIrq_p (s : State) : (nextIrq s).p = s.p := by
  unfold nextIrq; cases s.env.irqPlan <;> rfl

@[simp] theorem nextIrq_pc (s : State) : (nextIrq s).pc = s.pc := by
  unfold nextIrq; cases s.env.irqPlan <;> rfl

@[simp] theorem nextIrq_cycles (s : State) : (nextIrq s).cycles = s.cycles := by
  unfold nextIrq; cases s.env.irqPlan <;> rfl

@[simp] theorem nextIrq_nmiPending (s : State) : (nextIrq s).nmiPending = s.nmiPending := by
  unfold nextIrq; cases s.env.irqPlan <;> rfl

@[simp] theorem nextIrq_nmiPrev (s : State) : (nextIrq s).nmiPrev = s.nmiPrev := by
  unfold nextIrq; cases s.env.irqPlan <;> rfl

@[simp] theorem nextIrq_halted (s : State) : (nextIrq s).halted = s.halted := by
  unfold nextIrq; cases s.env.irqPlan <;> rfl

@[simp] theorem nextIrq_dmaPage (s : State) : (nextIrq s).dmaPage = s.dmaPage := by
  unfold nextIrq; cases s.env.irqPlan <;> rfl

@[simp] theorem nextIrq_ram (s : State) : (nextIrq s).ram = s.ram := by
  unfold nextIrq; cases s.env.irqPlan <;> rfl

@[simp] theorem nextIrq_cart (s : State) : (nextIrq s).cart = s.cart := by
  unfold nextIrq; cases s.env.irqPlan <;> rfl

@[simp] theorem nextIrq_out (s : State) : (nextIrq s).out = s.out := by
  unfold nextIrq; cases s.env.irqPlan <;> rfl

@[simp] theorem nextIrq_nmiLine (s : State) : (nextIrq s).env.nmiLine = s.env.nmiLine := by
  unfold nextIrq; cases s.env.irqPlan <;> rfl

@[simp] theorem nextIrq_nmiPlan (s : State) : (nextIrq s).env.nmiPlan = s.env.nmiPlan := by
  unfold nextIrq; cases s.env.irqPlan <;> rfl

@[simp] theorem nextIrq_portAnswers (s : State) : (nextIrq s).env.portAnswers = s.env.portAnswers := by
  unfold nextIrq; cases s.env.irqPlan <;> rfl

@[simp] theorem nextIrq_portReads (s : State) : (nextIrq s).env.portReads = s.env.portReads := by
  unfold nextIrq; cases s.env.irqPlan <;> rfl

@[simp] theorem beginStep_a (s : State) : (beginStep s).a = s.a := rfl

@[simp] theorem beginStep_x (s : State) : (beginStep s).x = s.x := rfl

@[simp] theorem beginStep_y (s : State) : (beginStep s).y = s.y := rfl

@[simp] theorem beginStep_sp (s : State) : (beginStep s).sp = s.sp := rfl

@[simp] theorem beginStep_p (s : State) : (beginStep s).p = s.p := rfl

@[simp] theorem beginStep_pc (s : State) : (beginStep s).pc = s.pc := rfl

@[simp] theorem beginStep_cycles (s : State) : (beginStep s).cycles = s.cycles := rfl

@[simp] theorem beginStep_nmiPending (s : State) : (beginStep s).nmiPending = s.nmiPending := rfl

@[simp] theorem beginStep_nmiPrev (s : State) : (beginStep s).nmiPrev = s.nmiPrev := rfl

@[simp] theorem beginStep_irqLine (s : State) : (beginStep s).irqLine = s.irqLine := rfl

@[simp] theorem beginStep_halted (s : State) : (beginStep s).halted = s.halted := rfl

@[simp] theorem beginStep_dmaPage (s : State) : (beginStep s).dmaPage = s.dmaPage := rfl

@[simp] theorem beginStep_ram (s : State) : (beginStep s).ram = s.ram := rfl

@[simp] theorem beginStep_cart (s : State) : (beginStep s).cart = s.cart := rfl

@[simp] theorem beginStep_env (s : State) : (beginStep s).env = s.env := rfl

@[simp] theorem beginStep_bus (s : State) : (beginStep s).out.bus = [] := rfl

@[simp] theorem beginStep_ports (s : State) : (beginStep s).out.ports = s.out.ports := rfl

@[simp] theorem beginStep_returned (s : State) : (beginStep s).out.returned = none := rfl

/-! ## OAMDMA and the end of a step -/

@[simp] theorem dmaCopy_a (n : Nat) (a : Word) (s : State) : (dmaCopy n a s).a = s.a := by
  induction n generalizing a s with
  | zero => rfl
  | succ n ih => simp [dmaCopy, ih]

@[simp] theorem dmaCopy_x (n : Nat) (a : Word) (s : State) : (dmaCopy n a s).x = s.x := by
  induction n generalizing a s with
  | zero => rfl
  | succ n ih => simp [dmaCopy, ih]

@[simp] theorem dmaCopy_y (n : Nat) (a : Word) (s : State) : (dmaCopy n a s).y = s.y := by
  induction n generalizing a s with
  | zero => rfl
  | succ n ih => simp [dmaCopy, ih]

@[simp] theorem dmaCopy_sp (n : Nat) (a : Word) (s : State) : (dmaCopy n a s).sp = s.sp := by
  induction n generalizing a s with
  | zero => rfl
  | succ n ih => simp [dmaCopy, ih]

@[simp] theorem dmaCopy_p (n : Nat) (a : Word) (s : State) : (dmaCopy n a s).p = s.p := by
  induction n generalizing a s with
  | zero => rfl
  | succ n ih => simp [dmaCopy, ih]

@[simp] theorem dmaCopy_pc (n : Nat) (a : Word) (s : State) : (dmaCopy n a s).pc = s.pc := by
  induction n generalizing a s with
  | zero => rfl
  | succ n ih => simp [dmaCopy, ih]

@[simp] theorem dmaCopy_cycles (n : Nat) (a : Word) (s : State) : (dmaCopy n a s).cycles = s.cycles := by
  induction n generalizing a s with
  | zero => rfl
  | succ n ih => simp [dmaCopy, ih]

@[simp] theorem dmaCopy_nmiPending (n : Nat) (a : Word) (s : State) : (dmaCopy n a s).nmiPending = s.nmiPending := by
  induction n generalizing a s with
  | zero => rfl
  | succ n ih => simp [dmaCopy, ih]

@[simp] theorem dmaCopy_nmiPrev (n : Nat) (a : Word) (s : State) : (dmaCopy n a s).nmiPrev = s.nmiPrev := by
  induction n generalizing a s with
  | zero => rfl
  | succ n ih => simp [dmaCopy, ih]

@[simp] theorem dmaCopy_irqLine (n : Nat) (a : Word) (s : State) : (dmaCopy n a s).irqLine = s.irqLine := by
  induction n generalizing a s with
  | zero => rfl
  | succ n ih => simp [dmaCopy, ih]

@[simp] theorem dmaCopy_halted (n : Nat) (a : Word) (s : State) : (dmaCopy n a s).halted = s.halted := by
  induction n generalizing a s with
  | zero => rfl
  | succ n ih => simp [dmaCopy, ih]

@[simp] theorem dmaCopy_dmaPage (n : Nat) (a : Word) (s : State) : (dmaCopy n a s).dmaPage = s.dmaPage := by
  induction n generalizing a s with
  | zero => rfl
  | succ n ih => simp [dmaCopy, ih]

@[simp] theorem dmaCopy_ram (n : Nat) (a : Word) (s : State) : (dmaCopy n a s).ram = s.ram := by
  induction n generalizing a s with
  | zero => rfl
  | succ n ih => simp [dmaCopy, ih]

@[simp] theorem dmaCopy_cart (n : Nat) (a : Word) (s : State) : (dmaCopy n a s).cart = s.cart := by
  induction n generalizing a s with
  | zero => rfl
  | succ n ih => simp [dmaCopy, ih]

@[simp] theorem dmaCopy_nmiLine (n : Nat) (a : Word) (s : State) : (dmaCopy n a s).env.nmiLine = s.env.nmiLine := by
  induction n generalizing a s with
  | zero => rfl
  | succ n ih => simp [dmaCopy, ih]

@[simp] theorem dmaCopy_nmiPlan (n : Nat) (a : Word) (s : State) : (dmaCopy n a s).env.nmiPlan = s.env.nmiPlan := by
  induction n generalizing a s with
  | zero => rfl
  | succ n ih => simp [dmaCopy, ih]

@[simp] theorem dmaCopy_irqPlan (n : Nat) (a : Word) (s : State) : (dmaCopy n a s).env.irqPlan = s.env.irqPlan := by
  induction n generalizing a s with
  | zero => rfl
  | succ n ih => simp [dmaCopy, ih]

/-- The copy's transactions: one read of each address, ascending, newest first. -/
theorem dmaCopy_bus (n : Nat) (a : Word) (s : State) : ∃ new, (dmaCopy n a s).out.bus = new ++ s.out.bus ∧
    new.reverse.map BusTxn.access = (List.range n).map (fun k => (false, a + BitVec.ofNat 16 k)) := by
  induction n generalizing a s with
  | zero => exact ⟨[], rfl, rfl⟩
  | succ n ih =>
    obtain ⟨new, hb, ha⟩ := ih (a + 1) ((busRead a s).2.logPort (.ppuWrite 4 (busRead a s).1))
    refine ⟨new ++ [.read a (busRead a s).1], ?_, ?_⟩
    · simpa [dmaCopy] using hb
    · rw [List.reverse_append, List.map_append, ha, List.range_succ_eq_map, List.map_cons, List.map_map]
      refine congrArg₂ List.cons (by simp [BusTxn.access]) (List.map_congr_left fun k _ => ?_)
      simp only [Function.comp, Prod.mk.injEq, true_and]
      rw [show k.succ = 1 + k by omega, BitVec.ofNat_add, BitVec.add_assoc]
      rfl

theorem endStep_none (n : Nat) (s : State) (h : s.dmaPage = none) : endStep n s = addCycles n s := by
  unfold endStep; rw [h]

theorem endStep_some (n : Nat) (page : Byte) (s : State) (h : s.dmaPage = some page) :
    endStep n s =
      addCycles (n + dmaCycles (s.cycles + BitVec.ofNat 64 n)) ((oamDma page s).setDmaPage none) := by
  unfold endStep; rw [h]

@[simp] theorem endStep_a (n : Nat) (s : State) : (endStep n s).a = s.a := by
  unfold endStep; cases s.dmaPage <;> simp [addCycles, oamDma]

@[simp] theorem endStep_x (n : Nat) (s : State) : (endStep n s).x = s.x := by
  unfold endStep; cases s.dmaPage <;> simp [addCycles, oamDma]

@[simp] theorem endStep_y (n : Nat) (s : State) : (endStep n s).y = s.y := by
  unfold endStep; cases s.dmaPage <;> simp [addCycles, oamDma]

@[simp] theorem endStep_sp (n : Nat) (s : State) : (endStep n s).sp = s.sp := by
  unfold endStep; cases s.dmaPage <;> simp [addCycles, oamDma]

@[simp] theorem endStep_p (n : Nat) (s : State) : (endStep n s).p = s.p := by
  unfold endStep; cases s.dmaPage <;> simp [addCycles, oamDma]

@[simp] theorem endStep_pc (n : Nat) (s : State) : (endStep n s).pc = s.pc := by
  unfold endStep; cases s.dmaPage <;> simp [addCycles, oamDma]

@[simp] theorem endStep_nmiPending (n : Nat) (s : State) : (endStep n s).nmiPending = s.nmiPending := by
  unfold endStep; cases s.dmaPage <;> simp [addCycles, oamDma]

@[simp] theorem endStep_nmiPrev (n : Nat) (s : State) : (endStep n s).nmiPrev = s.nmiPrev := by
  unfold endStep; cases s.dmaPage <;> simp [addCycles, oamDma]

@[simp] theorem endStep_irqLine (n : Nat) (s : State) : (endStep n s).irqLine = s.irqLine := by
  unfold endStep; cases s.dmaPage <;> simp [addCycles, oamDma]

@[simp] theorem endStep_halted (n : Nat) (s : State) : (endStep n s).halted = s.halted := by
  unfold endStep; cases s.dmaPage <;> simp [addCycles, oamDma]

@[simp] theorem endStep_ram (n : Nat) (s : State) : (endStep n s).ram = s.ram := by
  unfold endStep; cases s.dmaPage <;> simp [addCycles, oamDma]

@[simp] theorem endStep_cart (n : Nat) (s : State) : (endStep n s).cart = s.cart := by
  unfold endStep; cases s.dmaPage <;> simp [addCycles, oamDma]

@[simp] theorem addCycles_a (n : Nat) (s : State) : (addCycles n s).a = s.a := rfl

@[simp] theorem addCycles_x (n : Nat) (s : State) : (addCycles n s).x = s.x := rfl

@[simp] theorem addCycles_y (n : Nat) (s : State) : (addCycles n s).y = s.y := rfl

@[simp] theorem addCycles_sp (n : Nat) (s : State) : (addCycles n s).sp = s.sp := rfl

@[simp] theorem addCycles_p (n : Nat) (s : State) : (addCycles n s).p = s.p := rfl

@[simp] theorem addCycles_pc (n : Nat) (s : State) : (addCycles n s).pc = s.pc := rfl

@[simp] theorem addCycles_nmiPending (n : Nat) (s : State) : (addCycles n s).nmiPending = s.nmiPending := rfl

@[simp] theorem addCycles_nmiPrev (n : Nat) (s : State) : (addCycles n s).nmiPrev = s.nmiPrev := rfl

@[simp] theorem addCycles_irqLine (n : Nat) (s : State) : (addCycles n s).irqLine = s.irqLine := rfl

@[simp] theorem addCycles_halted (n : Nat) (s : State) : (addCycles n s).halted = s.halted := rfl

@[simp] theorem addCycles_dmaPage (n : Nat) (s : State) : (addCycles n s).dmaPage = s.dmaPage := rfl

@[simp] theorem addCycles_ram (n : Nat) (s : State) : (addCycles n s).ram = s.ram := rfl

@[simp] theorem addCycles_cart (n : Nat) (s : State) : (addCycles n s).cart = s.cart := rfl

@[simp] theorem addCycles_cycles (n : Nat) (s : State) : (addCycles n s).cycles = s.cycles + BitVec.ofNat 64 n := rfl

@[simp] theorem addCycles_env (n : Nat) (s : State) : (addCycles n s).env = s.env := rfl

@[simp] theorem addCycles_out (n : Nat) (s : State) : (addCycles n s).out = { s.out with returned := some n } := rfl

@[simp] theorem endStep_dmaPage (n : Nat) (s : State) : (endStep n s).dmaPage = none := by
  unfold endStep
  split
  · simpa using ‹_›
  · rfl

/-- A step's count: its own, or with an OAMDMA 513 or 514 more. -/
theorem endStep_returned (n : Nat) (s : State) : ∃ m, (endStep n s).out.returned = some m ∧
    (endStep n s).cycles = s.cycles + BitVec.ofNat 64 m ∧ n ≤ m ∧ m ≤ n + 514 := by
  unfold endStep
  split
  · exact ⟨n, rfl, rfl, le_refl _, by omega⟩
  next page _ =>
    exact ⟨n + dmaCycles (s.cycles + BitVec.ofNat 64 n), rfl, by simp [oamDma], by omega, by unfold dmaCycles; omega⟩

/-! ## Taking an interrupt and returning from one -/

/-- The machine right before the vector is read: PC and P pushed, the re-poll made, I set. -/
def entryReady (vector : Word) (b hijackable : Bool) (s : State) : Word × State :=
  let t := push (pushedStatus b s.p) (pushWord s.pc s)
  let h := if hijackable then hijack vector t else (vector, t)
  (h.1, h.2.setP (setI true s.p))

theorem hijack_eq (vector : Word) (s : State) : hijack vector s =
    if (pollNmi s).nmiPending then (nmiVector, (pollNmi s).setNmiPending false) else (vector, pollNmi s) := rfl


@[simp] theorem hijack_a (vector : Word) (s : State) : (hijack vector s).2.a = s.a := by
  rw [hijack_eq]; split <;> rfl

@[simp] theorem hijack_x (vector : Word) (s : State) : (hijack vector s).2.x = s.x := by
  rw [hijack_eq]; split <;> rfl

@[simp] theorem hijack_y (vector : Word) (s : State) : (hijack vector s).2.y = s.y := by
  rw [hijack_eq]; split <;> rfl

@[simp] theorem hijack_sp (vector : Word) (s : State) : (hijack vector s).2.sp = s.sp := by
  rw [hijack_eq]; split <;> rfl

@[simp] theorem hijack_p (vector : Word) (s : State) : (hijack vector s).2.p = s.p := by
  rw [hijack_eq]; split <;> rfl

@[simp] theorem hijack_pc (vector : Word) (s : State) : (hijack vector s).2.pc = s.pc := by
  rw [hijack_eq]; split <;> rfl

@[simp] theorem hijack_cycles (vector : Word) (s : State) : (hijack vector s).2.cycles = s.cycles := by
  rw [hijack_eq]; split <;> rfl

@[simp] theorem hijack_irqLine (vector : Word) (s : State) : (hijack vector s).2.irqLine = s.irqLine := by
  rw [hijack_eq]; split <;> rfl

@[simp] theorem hijack_halted (vector : Word) (s : State) : (hijack vector s).2.halted = s.halted := by
  rw [hijack_eq]; split <;> rfl

@[simp] theorem hijack_dmaPage (vector : Word) (s : State) : (hijack vector s).2.dmaPage = s.dmaPage := by
  rw [hijack_eq]; split <;> rfl

@[simp] theorem hijack_ram (vector : Word) (s : State) : (hijack vector s).2.ram = s.ram := by
  rw [hijack_eq]; split <;> rfl

@[simp] theorem hijack_cart (vector : Word) (s : State) : (hijack vector s).2.cart = s.cart := by
  rw [hijack_eq]; split <;> rfl

theorem interruptEntry_eq (vector : Word) (b hijackable : Bool) (s : State) :
    interruptEntry vector b hijackable s =
      (read16 (entryReady vector b hijackable s).1 (entryReady vector b hijackable s).2).2.setPC
        (read16 (entryReady vector b hijackable s).1 (entryReady vector b hijackable s).2).1 := by
  cases hijackable <;>
    simp only [interruptEntry, entryReady, if_true, Bool.false_eq_true, if_false, hijack_p, push_p, pushWord_eq]

@[simp] theorem interruptEntry_a (vector : Word) (b h : Bool) (s : State) :
    (interruptEntry vector b h s).a = s.a := by
  rw [interruptEntry_eq]
  cases h <;> simp [read16_eq, readPair_eq, entryReady, pushWord_eq]

@[simp] theorem interruptEntry_x (vector : Word) (b h : Bool) (s : State) :
    (interruptEntry vector b h s).x = s.x := by
  rw [interruptEntry_eq]
  cases h <;> simp [read16_eq, readPair_eq, entryReady, pushWord_eq]

@[simp] theorem interruptEntry_y (vector : Word) (b h : Bool) (s : State) :
    (interruptEntry vector b h s).y = s.y := by
  rw [interruptEntry_eq]
  cases h <;> simp [read16_eq, readPair_eq, entryReady, pushWord_eq]

@[simp] theorem interruptEntry_cycles (vector : Word) (b h : Bool) (s : State) :
    (interruptEntry vector b h s).cycles = s.cycles := by
  rw [interruptEntry_eq]
  cases h <;> simp [read16_eq, readPair_eq, entryReady, pushWord_eq]

@[simp] theorem interruptEntry_irqLine (vector : Word) (b h : Bool) (s : State) :
    (interruptEntry vector b h s).irqLine = s.irqLine := by
  rw [interruptEntry_eq]
  cases h <;> simp [read16_eq, readPair_eq, entryReady, pushWord_eq]

@[simp] theorem interruptEntry_halted (vector : Word) (b h : Bool) (s : State) :
    (interruptEntry vector b h s).halted = s.halted := by
  rw [interruptEntry_eq]
  cases h <;> simp [read16_eq, readPair_eq, entryReady, pushWord_eq]

@[simp] theorem interruptEntry_dmaPage (vector : Word) (b h : Bool) (s : State) :
    (interruptEntry vector b h s).dmaPage = s.dmaPage := by
  rw [interruptEntry_eq]
  cases h <;> simp [read16_eq, readPair_eq, entryReady, pushWord_eq]

@[simp] theorem interruptEntry_cart (vector : Word) (b h : Bool) (s : State) :
    (interruptEntry vector b h s).cart = s.cart := by
  rw [interruptEntry_eq]
  cases h <;> simp [read16_eq, readPair_eq, entryReady, pushWord_eq]

@[simp] theorem interruptEntry_sp (vector : Word) (b h : Bool) (s : State) :
    (interruptEntry vector b h s).sp = s.sp - 1 - 1 - 1 := by
  rw [interruptEntry_eq]
  cases h <;> simp [read16_eq, readPair_eq, entryReady, pushWord_eq]

@[simp] theorem interruptEntry_p (vector : Word) (b h : Bool) (s : State) :
    (interruptEntry vector b h s).p = setI true s.p := by
  rw [interruptEntry_eq]; simp [read16_eq, readPair_eq, entryReady]

/-- The three bytes an entry pushes. -/
@[simp] theorem interruptEntry_ram (vector : Word) (b h : Bool) (s : State) :
    (interruptEntry vector b h s).ram =
      ((s.ram.write (0x100 + s.sp.toNat) (hiByte s.pc)).write (0x100 + (s.sp - 1).toNat) (loByte s.pc)).write
        (0x100 + (s.sp - 1 - 1).toNat) (pushedStatus b s.p) := by
  rw [interruptEntry_eq]
  cases h <;> simp [read16_eq, readPair_eq, entryReady, pushWord_eq]

/-- Where an entry with no re-poll goes. -/
theorem interruptEntry_pc (vector : Word) (b : Bool) (s : State) (hv : 0x4020 ≤ vector.toNat)
    (hv' : 0x4020 ≤ (vector + 1).toNat) :
    (interruptEntry vector b false s).pc = wordOf (s.cart.cpuRead (vector + 1)) (s.cart.cpuRead vector) := by
  rw [interruptEntry_eq]
  simp only [read16_eq, entryReady, Bool.false_eq_true, if_false, readPair_cartridge _ _ _ hv hv']
  simp [pushWord_eq]

theorem returnFromInterrupt_eq (s : State) :
    returnFromInterrupt s =
      (pullWord ((pull s).2.setP (pulledStatus (pull s).1))).2.setPC
        (pullWord ((pull s).2.setP (pulledStatus (pull s).1))).1 := rfl

@[simp] theorem returnFromInterrupt_a (s : State) : (returnFromInterrupt s).a = s.a := by
  simp [returnFromInterrupt_eq, pullWord_eq]

@[simp] theorem returnFromInterrupt_x (s : State) : (returnFromInterrupt s).x = s.x := by
  simp [returnFromInterrupt_eq, pullWord_eq]

@[simp] theorem returnFromInterrupt_y (s : State) : (returnFromInterrupt s).y = s.y := by
  simp [returnFromInterrupt_eq, pullWord_eq]

@[simp] theorem returnFromInterrupt_cycles (s : State) : (returnFromInterrupt s).cycles = s.cycles := by
  simp [returnFromInterrupt_eq, pullWord_eq]

@[simp] theorem returnFromInterrupt_nmiPending (s : State) : (returnFromInterrupt s).nmiPending = s.nmiPending := by
  simp [returnFromInterrupt_eq, pullWord_eq]

@[simp] theorem returnFromInterrupt_nmiPrev (s : State) : (returnFromInterrupt s).nmiPrev = s.nmiPrev := by
  simp [returnFromInterrupt_eq, pullWord_eq]

@[simp] theorem returnFromInterrupt_irqLine (s : State) : (returnFromInterrupt s).irqLine = s.irqLine := by
  simp [returnFromInterrupt_eq, pullWord_eq]

@[simp] theorem returnFromInterrupt_halted (s : State) : (returnFromInterrupt s).halted = s.halted := by
  simp [returnFromInterrupt_eq, pullWord_eq]

@[simp] theorem returnFromInterrupt_dmaPage (s : State) : (returnFromInterrupt s).dmaPage = s.dmaPage := by
  simp [returnFromInterrupt_eq, pullWord_eq]

@[simp] theorem returnFromInterrupt_cart (s : State) : (returnFromInterrupt s).cart = s.cart := by
  simp [returnFromInterrupt_eq, pullWord_eq]

@[simp] theorem returnFromInterrupt_ram (s : State) : (returnFromInterrupt s).ram = s.ram := by
  simp [returnFromInterrupt_eq, pullWord_eq]

@[simp] theorem returnFromInterrupt_env (s : State) : (returnFromInterrupt s).env = s.env := by
  simp [returnFromInterrupt_eq, pullWord_eq]

@[simp] theorem returnFromInterrupt_sp (s : State) : (returnFromInterrupt s).sp = s.sp + 1 + 1 + 1 := by
  simp [returnFromInterrupt_eq, pullWord_eq]

@[simp] theorem returnFromInterrupt_p (s : State) :
    (returnFromInterrupt s).p = pulledStatus (s.ram.read (0x100 + (s.sp + 1).toNat)) := by
  simp [returnFromInterrupt_eq, pullWord_eq]

@[simp] theorem returnFromInterrupt_pc (s : State) :
    (returnFromInterrupt s).pc = wordOf (s.ram.read (0x100 + (s.sp + 1 + 1 + 1).toNat))
      (s.ram.read (0x100 + (s.sp + 1 + 1).toNat)) := by
  simp [returnFromInterrupt_eq, pullWord_eq]

/-- The OAMDMA's copy taken apart at its last byte. -/
theorem dmaCopy_succ (n : Nat) : ∀ (a : Word) (s : State), dmaCopy (n + 1) a s =
    (busRead (a + BitVec.ofNat 16 n) (dmaCopy n a s)).2.logPort
      (.ppuWrite 4 (busRead (a + BitVec.ofNat 16 n) (dmaCopy n a s)).1) := by
  induction n with
  | zero => intro a s; simp [dmaCopy]
  | succ n ih =>
    intro a s
    have next : a + 1 + BitVec.ofNat 16 n = a + BitVec.ofNat 16 (n + 1) := by
      rw [BitVec.add_assoc, BitVec.add_comm 1, BitVec.ofNat_add]; rfl
    refine (ih (a + 1) _).trans ?_
    rw [next]; rfl

end Sys2Proof.Machine
end

