-- ==== Sys2Proof/Laws/Operands.lean ====
section
/-! SUPPORT. What working out an operand leaves alone, and what each instruction shape answers. -/

namespace Sys2Proof.Machine

/-! ## Effective addresses and operands: only the inputs used up and the outputs change -/

@[simp] theorem effective_a (o : Operand) (s : State) : (effective o s).2.a = s.a := by
  cases o <;> simp [effective, indirectPointer, zeroPagePointer, readPair_eq]

@[simp] theorem effective_x (o : Operand) (s : State) : (effective o s).2.x = s.x := by
  cases o <;> simp [effective, indirectPointer, zeroPagePointer, readPair_eq]

@[simp] theorem effective_y (o : Operand) (s : State) : (effective o s).2.y = s.y := by
  cases o <;> simp [effective, indirectPointer, zeroPagePointer, readPair_eq]

@[simp] theorem effective_sp (o : Operand) (s : State) : (effective o s).2.sp = s.sp := by
  cases o <;> simp [effective, indirectPointer, zeroPagePointer, readPair_eq]

@[simp] theorem effective_p (o : Operand) (s : State) : (effective o s).2.p = s.p := by
  cases o <;> simp [effective, indirectPointer, zeroPagePointer, readPair_eq]

@[simp] theorem effective_pc (o : Operand) (s : State) : (effective o s).2.pc = s.pc := by
  cases o <;> simp [effective, indirectPointer, zeroPagePointer, readPair_eq]

@[simp] theorem effective_cycles (o : Operand) (s : State) : (effective o s).2.cycles = s.cycles := by
  cases o <;> simp [effective, indirectPointer, zeroPagePointer, readPair_eq]

@[simp] theorem effective_nmiPending (o : Operand) (s : State) : (effective o s).2.nmiPending = s.nmiPending := by
  cases o <;> simp [effective, indirectPointer, zeroPagePointer, readPair_eq]

@[simp] theorem effective_nmiPrev (o : Operand) (s : State) : (effective o s).2.nmiPrev = s.nmiPrev := by
  cases o <;> simp [effective, indirectPointer, zeroPagePointer, readPair_eq]

@[simp] theorem effective_irqLine (o : Operand) (s : State) : (effective o s).2.irqLine = s.irqLine := by
  cases o <;> simp [effective, indirectPointer, zeroPagePointer, readPair_eq]

@[simp] theorem effective_halted (o : Operand) (s : State) : (effective o s).2.halted = s.halted := by
  cases o <;> simp [effective, indirectPointer, zeroPagePointer, readPair_eq]

@[simp] theorem effective_dmaPage (o : Operand) (s : State) : (effective o s).2.dmaPage = s.dmaPage := by
  cases o <;> simp [effective, indirectPointer, zeroPagePointer, readPair_eq]

@[simp] theorem effective_ram (o : Operand) (s : State) : (effective o s).2.ram = s.ram := by
  cases o <;> simp [effective, indirectPointer, zeroPagePointer, readPair_eq]

@[simp] theorem effective_cart (o : Operand) (s : State) : (effective o s).2.cart = s.cart := by
  cases o <;> simp [effective, indirectPointer, zeroPagePointer, readPair_eq]

@[simp] theorem effective_nmiLine (o : Operand) (s : State) : (effective o s).2.env.nmiLine = s.env.nmiLine := by
  cases o <;> simp [effective, indirectPointer, zeroPagePointer, readPair_eq]

@[simp] theorem effective_nmiPlan (o : Operand) (s : State) : (effective o s).2.env.nmiPlan = s.env.nmiPlan := by
  cases o <;> simp [effective, indirectPointer, zeroPagePointer, readPair_eq]

@[simp] theorem effective_irqPlan (o : Operand) (s : State) : (effective o s).2.env.irqPlan = s.env.irqPlan := by
  cases o <;> simp [effective, indirectPointer, zeroPagePointer, readPair_eq]

@[simp] theorem effective_returned (o : Operand) (s : State) : (effective o s).2.out.returned = s.out.returned := by
  cases o <;> simp [effective, indirectPointer, zeroPagePointer, readPair_eq]

/-! ## Address arithmetic as numbers -/

theorem zext16_toNat (z : Byte) : (zext16 z).toNat = z.toNat := by
  rw [zext16, BitVec.toNat_setWidth]; omega

theorem wordOf_toNat (h l : Byte) : (wordOf h l).toNat = h.toNat * 256 + l.toNat := by
  unfold wordOf
  rw [BitVec.toNat_append, ← Nat.shiftLeft_add_eq_or_of_lt l.isLt, Nat.shiftLeft_eq]

theorem hiByte_toNat (w : Word) : (hiByte w).toNat = w.toNat / 256 := by
  have := w.isLt
  simp only [hiByte, BitVec.extractLsb'_toNat, Nat.shiftRight_eq_div_pow]; omega

theorem pageDiffers_iff (a b : Word) : pageDiffers a b = true ↔ a.toNat / 256 ≠ b.toNat / 256 := by
  unfold pageDiffers
  rw [bne_iff_ne, ne_eq, ← BitVec.toNat_inj, hiByte_toNat, hiByte_toNat]

theorem indexed_addr_toNat (base : Word) (index : Byte) :
    (indexed base index).addr.toNat = (base.toNat + index.toNat) % 65536 := by
  show (base + zext16 index).toNat = _
  rw [BitVec.toNat_add, zext16_toNat]

theorem indexed_crossed_iff (base : Word) (index : Byte) : (indexed base index).crossed = true ↔
    (base.toNat + index.toNat) % 65536 / 256 ≠ base.toNat / 256 := by
  rw [← indexed_addr_toNat base index]
  exact pageDiffers_iff _ _

/-! ## Operands and the transactions of a mode -/

/-- The pointer reads of a mode, newest first. -/
theorem effective_bus (o : Operand) (s : State) : ∃ new, (effective o s).2.out.bus = new ++ s.out.bus ∧
    new.reverse.map BusTxn.access = (o.pointerReads s).map (false, ·) := by
  cases o with
  | indirect a =>
    exact ⟨[.read (wordOf (hiByte a) (loByte a + 1)) (busRead (wordOf (hiByte a) (loByte a + 1)) (busRead a s).2).1,
      .read a (busRead a s).1],
      by simp [effective, indirectPointer, readPair_eq], by simp [Operand.pointerReads, BusTxn.access]⟩
  | indirectX z =>
    exact ⟨[.read (zext16 (z + s.x + 1)) (busRead (zext16 (z + s.x + 1)) (busRead (zext16 (z + s.x)) s).2).1,
      .read (zext16 (z + s.x)) (busRead (zext16 (z + s.x)) s).1],
      by simp [effective, zeroPagePointer, readPair_eq], by simp [Operand.pointerReads, BusTxn.access]⟩
  | indirectY z =>
    exact ⟨[.read (zext16 (z + 1)) (busRead (zext16 (z + 1)) (busRead (zext16 z) s).2).1, .read (zext16 z) (busRead (zext16 z) s).1],
      by simp [effective, zeroPagePointer, readPair_eq], by simp [Operand.pointerReads, BusTxn.access]⟩
  | _ => exact ⟨[], by simp [effective], rfl⟩

/-- `M` of an operand that has an address. -/
theorem readOperand_eq (o : Operand) (s : State) (h : ∀ v, o ≠ .immediate v) : readOperand o s =
    { value := (busRead (effective o s).1.addr (effective o s).2).1, crossed := (effective o s).1.crossed,
      after := (busRead (effective o s).1.addr (effective o s).2).2 } := by
  cases o with
  | immediate v => exact absurd rfl (h v)
  | _ => rfl

@[simp] theorem readOperand_a (o : Operand) (s : State) : (readOperand o s).after.a = s.a := by
  cases o with
  | immediate v => rfl
  | _ => rw [readOperand_eq _ _ (by simp)]; simp

@[simp] theorem readOperand_x (o : Operand) (s : State) : (readOperand o s).after.x = s.x := by
  cases o with
  | immediate v => rfl
  | _ => rw [readOperand_eq _ _ (by simp)]; simp

@[simp] theorem readOperand_y (o : Operand) (s : State) : (readOperand o s).after.y = s.y := by
  cases o with
  | immediate v => rfl
  | _ => rw [readOperand_eq _ _ (by simp)]; simp

@[simp] theorem readOperand_sp (o : Operand) (s : State) : (readOperand o s).after.sp = s.sp := by
  cases o with
  | immediate v => rfl
  | _ => rw [readOperand_eq _ _ (by simp)]; simp

@[simp] theorem readOperand_p (o : Operand) (s : State) : (readOperand o s).after.p = s.p := by
  cases o with
  | immediate v => rfl
  | _ => rw [readOperand_eq _ _ (by simp)]; simp

@[simp] theorem readOperand_pc (o : Operand) (s : State) : (readOperand o s).after.pc = s.pc := by
  cases o with
  | immediate v => rfl
  | _ => rw [readOperand_eq _ _ (by simp)]; simp

@[simp] theorem readOperand_cycles (o : Operand) (s : State) : (readOperand o s).after.cycles = s.cycles := by
  cases o with
  | immediate v => rfl
  | _ => rw [readOperand_eq _ _ (by simp)]; simp

@[simp] theorem readOperand_nmiPending (o : Operand) (s : State) : (readOperand o s).after.nmiPending = s.nmiPending := by
  cases o with
  | immediate v => rfl
  | _ => rw [readOperand_eq _ _ (by simp)]; simp

@[simp] theorem readOperand_nmiPrev (o : Operand) (s : State) : (readOperand o s).after.nmiPrev = s.nmiPrev := by
  cases o with
  | immediate v => rfl
  | _ => rw [readOperand_eq _ _ (by simp)]; simp

@[simp] theorem readOperand_irqLine (o : Operand) (s : State) : (readOperand o s).after.irqLine = s.irqLine := by
  cases o with
  | immediate v => rfl
  | _ => rw [readOperand_eq _ _ (by simp)]; simp

@[simp] theorem readOperand_halted (o : Operand) (s : State) : (readOperand o s).after.halted = s.halted := by
  cases o with
  | immediate v => rfl
  | _ => rw [readOperand_eq _ _ (by simp)]; simp

@[simp] theorem readOperand_dmaPage (o : Operand) (s : State) : (readOperand o s).after.dmaPage = s.dmaPage := by
  cases o with
  | immediate v => rfl
  | _ => rw [readOperand_eq _ _ (by simp)]; simp

@[simp] theorem readOperand_ram (o : Operand) (s : State) : (readOperand o s).after.ram = s.ram := by
  cases o with
  | immediate v => rfl
  | _ => rw [readOperand_eq _ _ (by simp)]; simp

@[simp] theorem readOperand_cart (o : Operand) (s : State) : (readOperand o s).after.cart = s.cart := by
  cases o with
  | immediate v => rfl
  | _ => rw [readOperand_eq _ _ (by simp)]; simp

@[simp] theorem readOperand_nmiLine (o : Operand) (s : State) : (readOperand o s).after.env.nmiLine = s.env.nmiLine := by
  cases o with
  | immediate v => rfl
  | _ => rw [readOperand_eq _ _ (by simp)]; simp

@[simp] theorem readOperand_nmiPlan (o : Operand) (s : State) : (readOperand o s).after.env.nmiPlan = s.env.nmiPlan := by
  cases o with
  | immediate v => rfl
  | _ => rw [readOperand_eq _ _ (by simp)]; simp

@[simp] theorem readOperand_irqPlan (o : Operand) (s : State) : (readOperand o s).after.env.irqPlan = s.env.irqPlan := by
  cases o with
  | immediate v => rfl
  | _ => rw [readOperand_eq _ _ (by simp)]; simp

/-! ## The shapes -/

theorem readInstr_eq (o : Operand) (base : Nat) (penalized : Bool) (f : Byte → State → State) (s : State) :
    readInstr o base penalized f s = .next (endStep (cyclesOf base penalized (readOperand o s).crossed)
      (f (readOperand o s).value (readOperand o s).after)) := rfl

theorem storeInstr_eq (o : Operand) (base : Nat) (v : State → Byte) (s : State) :
    storeInstr o base v s =
      .next (endStep base (busWrite (effective o s).1.addr (v (effective o s).2) (effective o s).2)) := rfl

theorem rmwInstr_eq (o : Operand) (base : Nat) (f : Byte → Byte → Byte × Byte) (s : State) :
    rmwInstr o base f s =
      .next (endStep base ((busWrite (effective o s).1.addr (f (busRead (effective o s).1.addr (effective o s).2).1 s.p).1
        (busRead (effective o s).1.addr (effective o s).2).2).setP
          (f (busRead (effective o s).1.addr (effective o s).2).1 s.p).2)) := by
  simp [rmwInstr]

theorem accInstr_eq (f : Byte → Byte → Byte × Byte) (s : State) :
    accInstr f s = .next (endStep 2 ((s.setA (f s.a s.p).1).setP (f s.a s.p).2)) := rfl

theorem impliedInstr_eq (cycles : Nat) (f : State → State) (s : State) :
    impliedInstr cycles f s = .next (endStep cycles (f s)) := rfl

theorem branchInstr_eq (cond : Byte → Bool) (d : Byte) (s : State) :
    branchInstr cond d s =
      .next (if cond s.p then
          endStep (cyclesOf 3 true (pageDiffers (branchTarget d s.pc) s.pc)) (s.setPC (branchTarget d s.pc))
        else endStep 2 s) := by
  simp only [branchInstr]; split <;> rfl

/-! ## Memory is its RAM and its cartridge -/

/-- Where RAM and the cartridge are as before, so is every byte. -/
theorem memoryKept_of_eq {s t : State} (hr : t.ram = s.ram) (hc : t.cart = s.cart) : MemoryKept s t :=
  ⟨hr, hc, peek_congr hr hc⟩

/-- The end of a step with no OAMDMA. -/
theorem ended_endStep (n : Nat) (u : State) (h : u.dmaPage = none) : Ended n u (endStep n u) := by
  rw [endStep_none n u h]; exact ⟨rfl, rfl, rfl⟩

/-- One RAM write: what every address peeks as after it. -/
theorem peek_setRam (a b : Word) (v : Byte) (s : State) (ha : a.toNat < 0x2000) :
    peek b (s.setRam (s.ram.write (a.toNat % 0x800) v)) = if sameRamCell a b then some v else peek b s := by
  by_cases hb : b.toNat < 0x2000
  · rw [peek_ram b _ hb, peek_ram b _ hb, State.setRam_ram, Memory.read_write]
    simp only [sameRamCell, ha, hb, decide_true, Bool.and_true, Bool.true_and, beq_iff_eq]
    split <;> split <;> first | rfl | omega
  · have e : sameRamCell a b = false := by simp [sameRamCell, hb]
    rw [e]
    simp only [Bool.false_eq_true, if_false]
    have key : ∀ t : State, t.cart = s.cart → peek b t = peek b s := by
      intro t hc
      unfold peek
      cases ht : readTarget b with
      | ram cell =>
        unfold readTarget at ht
        rw [if_neg hb] at ht
        split_ifs at ht
      | cartridge => rw [hc]
      | _ => rfl
    exact key _ rfl

/-- A store, as memory shows it. -/
theorem storedAt_busWrite (a : Word) (v : Byte) (s t : State) (hr : t.ram = (busWrite a v s).ram)
    (hc : t.cart = (busWrite a v s).cart) : StoredAt a v s t := by
  unfold StoredAt
  split
  next h =>
    have hr' : t.ram = (s.setRam (s.ram.write (a.toNat % 0x800) v)).ram := by rw [hr, busWrite_at_ram a v s h]; rfl
    have hc' : t.cart = (s.setRam (s.ram.write (a.toNat % 0x800) v)).cart := by rw [hc, busWrite_at_ram a v s h]; rfl
    exact ⟨hc', fun b => (peek_congr hr' hc' b).trans (peek_setRam a b v s h)⟩
  next h =>
    have hram : t.ram = s.ram := hr.trans (busWrite_ram_of_le a v s (by omega))
    split
    next h6 =>
      refine memoryKept_of_eq hram (hc.trans ?_)
      by_cases h4 : a.toNat < 0x4020
      · exact busWrite_cart_of_lt a v s h4
      · rw [busWrite_at_cartridge a v s (by omega)]
        show s.cart.cpuWrite a v = s.cart
        unfold Cart.cpuWrite; rw [if_pos h6]
    next h6 =>
      have hcart : t.cart = s.cart.cpuWrite a v := by rw [hc, busWrite_at_cartridge a v s (by omega)]; rfl
      split
      next h8 =>
        split
        next hp =>
          have e : t.cart = { s.cart with prgRam := s.cart.prgRam.write (a.toNat - 0x6000) v } := by
            rw [hcart]; unfold Cart.cpuWrite; rw [if_neg h6, if_pos h8, if_pos hp]
          refine ⟨hram, by rw [e], by rw [e], fun b => ?_⟩
          by_cases hb : 0x4020 ≤ b.toNat
          · rw [peek_cartridge b t hb, peek_cartridge b s hb, e]
            unfold Cart.cpuRead
            by_cases hb6 : b.toNat < 0x6000
            · have : b ≠ a := by rintro rfl; exact h6 hb6
              simp [hb6, this]
            · by_cases hb8 : b.toNat < 0x8000
              · have hp' : ({ s.cart with prgRam := s.cart.prgRam.write (a.toNat - 0x6000) v } : Cart).prgRamPresent
                    = true := hp
                rw [if_neg hb6, if_pos hb8, if_pos hp', if_neg hb6, if_pos hb8, if_pos hp, Memory.read_write]
                by_cases hab : b = a
                · simp [hab]
                · have : ¬ b.toNat - 0x6000 = a.toNat - 0x6000 := by
                    intro hh; exact hab (BitVec.eq_of_toNat_eq (by omega))
                  simp [hab, this]
              · have : b ≠ a := by rintro rfl; exact hb8 h8
                simp [hb6, hb8, this]; rfl
          · have : b ≠ a := by rintro rfl; exact hb (by omega)
            rw [if_neg this]
            unfold peek
            cases ht : readTarget b with
            | cartridge =>
              unfold readTarget at ht
              split_ifs at ht
              omega
            | ram cell => rw [hram]
            | _ => rfl
        next hp =>
          refine memoryKept_of_eq hram (hcart.trans ?_)
          unfold Cart.cpuWrite; rw [if_neg h6, if_pos h8, if_neg hp]
      next h8 =>
        cases hb : s.cart.board with
        | nrom =>
          exact memoryKept_of_eq hram (hcart.trans (by unfold Cart.cpuWrite; rw [if_neg h6, if_neg h8, hb]))
        | mmc1 r =>
          refine ⟨hram, hcart, fun b hlt => ?_⟩
          have hk : t.cart.prgRam = s.cart.prgRam ∧ t.cart.prgRamPresent = s.cart.prgRamPresent := by
            rw [hcart]
            unfold Cart.cpuWrite; rw [if_neg h6, if_neg h8, hb]
            dsimp only [Cart.mmc1Write, Cart.prgRamPresent]
            rw [hb]
            split_ifs <;> exact ⟨rfl, rfl⟩
          unfold peek
          cases ht : readTarget b with
          | cartridge => simp only [Cart.cpuRead, hk.1, hk.2, hlt, if_true]
          | ram cell => rw [hram]
          | _ => rfl

end Sys2Proof.Machine
end

