-- ==== Sys2Proof/Laws/Stack.lean ====
section
/-! SUPPORT. The stack slot as the statements name it, the RAM bytes pushed, and P as pushed. -/

namespace Sys2Proof.Machine

theorem stackSlot_eq (sp : Byte) : stackSlot sp = stackAddr sp := by revert sp; decide

theorem stackSlot_toNat (sp : Byte) : (stackSlot sp).toNat = 0x100 + sp.toNat := by revert sp; decide

theorem peek_stackSlot (sp : Byte) (s : State) : peek (stackSlot sp) s = some (s.ram.read (0x100 + sp.toNat)) := by
  have h := stackSlot_toNat sp
  have b := sp.isLt
  rw [peek_ram _ _ (by omega), h, show (0x100 + sp.toNat) % 0x800 = 0x100 + sp.toNat by omega]

theorem pushedStatus_false (p : Byte) : pushedStatus false p = p ||| 0x20 := by revert p; decide

theorem pushedStatus_true (p : Byte) : pushedStatus true p = p ||| 0x30 := by revert p; decide

theorem setI_true (p : Byte) : setI true p = p ||| 0x04 := by revert p; decide

/-! ## SP after several pushes or pulls -/

theorem sp_sub_two (x : Byte) : x - 1#8 - 1#8 = x - 2#8 := by revert x; decide

theorem sp_sub_three (x : Byte) : x - 2#8 - 1#8 = x - 3#8 := by revert x; decide

theorem sp_add_two (x : Byte) : x + 1#8 + 1#8 = x + 2#8 := by revert x; decide

theorem sp_add_three (x : Byte) : x + 2#8 + 1#8 = x + 3#8 := by revert x; decide

/-! ## RAM after writes to stack slots -/

theorem peek_setRam_stack (sp : Byte) (b : Word) (v : Byte) (s : State) :
    peek b (s.setRam (s.ram.write (0x100 + sp.toNat) v)) =
      if sameRamCell (stackSlot sp) b then some v else peek b s := by
  have h := stackSlot_toNat sp
  have l := sp.isLt
  have k := peek_setRam (stackSlot sp) b v s (by omega)
  rwa [show (stackSlot sp).toNat % 0x800 = 0x100 + sp.toNat by omega] at k

theorem ramStores_one {s t : State} {v : Byte} {p : Byte} (hr : t.ram = s.ram.write (0x100 + p.toNat) v)
    (hc : t.cart = s.cart) : RamStores [(stackSlot p, v)] s t := by
  refine ⟨hc, fun b => ?_⟩
  have k := peek_congr (s := s.setRam (s.ram.write (0x100 + p.toNat) v)) (t := t) hr hc b
  rw [k]; exact peek_setRam_stack p b v s

/-- One more RAM write on top of those of an earlier machine. -/
theorem ramStores_cons {s t u : State} {ws : List (Word × Byte)} {v : Byte} {p : Byte} (h : RamStores ws s t)
    (hr : u.ram = t.ram.write (0x100 + p.toNat) v) (hc : u.cart = t.cart) :
    RamStores ((stackSlot p, v) :: ws) s u := by
  refine ⟨hc.trans h.1, fun b => ?_⟩
  rw [(ramStores_one hr hc).2 b]
  simp only [peekAfter]
  rw [h.2 b]

end Sys2Proof.Machine
end

