-- ==== Sys2Proof/Laws/Entry.lean ====
section
/-! SUPPORT. The interrupt entry with and without the re-poll: its transactions, its port calls and where it goes. -/

namespace Sys2Proof.Machine

/-- An entry with no re-poll, at a vector of the cartridge. -/
theorem interruptEntry_plain (v : Word) (b : Bool) (s : State) (hv : 0x4020 ≤ v.toNat)
    (hv' : 0x4020 ≤ (v + 1).toNat) :
    (interruptEntry v b false s).out.bus = [.read (v + 1) (s.cart.cpuRead (v + 1)), .read v (s.cart.cpuRead v),
      .write (stackSlot (s.sp - 2)) (pushedStatus b s.p), .write (stackSlot (s.sp - 1)) (loByte s.pc),
      .write (stackSlot s.sp) (hiByte s.pc)] ++ s.out.bus ∧
    (interruptEntry v b false s).out.ports = s.out.ports ∧ (interruptEntry v b false s).env = s.env ∧
    (interruptEntry v b false s).nmiPending = s.nmiPending ∧ (interruptEntry v b false s).nmiPrev = s.nmiPrev := by
  rw [interruptEntry_eq]
  simp only [read16_eq, entryReady, Bool.false_eq_true, if_false, readPair_cartridge _ _ _ hv hv']
  simp [pushWord_eq, stackSlot_eq, sp_sub_two]

theorem hijackVector_ge (s : State) : 0x4020 ≤ (hijackVector s).toNat ∧ 0x4020 ≤ (hijackVector s + 1).toNat := by
  unfold hijackVector; split <;> decide

/-- A hijackable entry at the IRQ vector: what the re-poll sees decides the vector and empties the latch. -/
theorem interruptEntry_hijackable (b : Bool) (s : State) :
    (interruptEntry irqVector b true s).out.bus = [.read (hijackVector s + 1) (s.cart.cpuRead (hijackVector s + 1)),
      .read (hijackVector s) (s.cart.cpuRead (hijackVector s)), .write (stackSlot (s.sp - 2)) (pushedStatus b s.p),
      .write (stackSlot (s.sp - 1)) (loByte s.pc), .write (stackSlot s.sp) (hiByte s.pc)] ++ s.out.bus ∧
    (interruptEntry irqVector b true s).out.ports = .pollNmi (nmiLevel s) :: s.out.ports ∧
    (interruptEntry irqVector b true s).nmiPending = false ∧
    (interruptEntry irqVector b true s).nmiPrev = nmiLevel s ∧
    (interruptEntry irqVector b true s).pc = vectorTarget (hijackVector s) s.cart := by
  have hl : nmiLevel (push (pushedStatus b s.p) (push (loByte s.pc) (push (hiByte s.pc) s))) = nmiLevel s :=
    nmiLevel_congr (by simp) (by simp)
  have hs : (pollNmi (push (pushedStatus b s.p) (pushWord s.pc s))).nmiPending = nmiSeen s := by
    rw [pollNmi_nmiPending, pushWord_eq, hl]; simp [nmiSeen]
  have hj : (hijack irqVector (push (pushedStatus b s.p) (pushWord s.pc s))).1 = hijackVector s := by
    rw [hijack_eq, hs]; unfold hijackVector; split <;> rfl
  rw [interruptEntry_eq]
  simp only [read16_eq, entryReady, if_true, hj, readPair_cartridge _ _ _ (hijackVector_ge s).1 (hijackVector_ge s).2]
  have hout : (hijack irqVector (push (pushedStatus b s.p) (pushWord s.pc s))).2.out.bus =
      (push (pushedStatus b s.p) (pushWord s.pc s)).out.bus := by rw [hijack_eq]; split <;> rfl
  have hport : (hijack irqVector (push (pushedStatus b s.p) (pushWord s.pc s))).2.out.ports =
      .pollNmi (nmiLevel s) :: s.out.ports := by rw [hijack_eq]; split <;> simp [hl, pushWord_eq]
  refine ⟨?_, ?_, ?_, ?_, ?_⟩
  · rw [pushWord_eq] at hout
    simp [hout, pushWord_eq, stackSlot_eq, sp_sub_two]
  · simp [hport]
  · rw [hijack_eq]; split
    · simp
    next h => simpa using h
  · rw [hijack_eq]; split <;> simp [hl, pushWord_eq]
  · simp [vectorTarget, pushWord_eq]

end Sys2Proof.Machine
end

