-- ==== Sys2Proof/Laws/Step.lean ====
section
/-! SUPPORT. What a step can do, said once: the boundary, the fetch, and every instruction as a chain of primitive acts
followed by the end of the step. -/

namespace Sys2Proof.Machine

/-! ## The boundary -/

theorem boundary_halted (s : State) (h : s.halted = true) : boundary s = .halted := by
  unfold boundary; rw [if_pos h]

theorem boundary_eq (s : State) (h : s.halted = false) : boundary s =
    if (sampled s).nmiPending then .entry (serviceNmi (sampled s))
    else if (sampled s).irqLine && !flagI (sampled s).p then .entry (serviceIrq (sampled s))
    else .run (sampled s) := by
  unfold boundary; rw [if_neg (by rw [h]; decide)]

/-- What an instruction boundary that runs an instruction was. -/
theorem boundary_run {s u : State} (h : boundary s = .run u) : s.halted = false ∧ u = sampled s ∧
    (sampled s).nmiPending = false ∧ ((sampled s).irqLine = false ∨ flagI (sampled s).p = true) := by
  cases hh : s.halted with
  | true => rw [boundary_halted s hh] at h; cases h
  | false =>
    rw [boundary_eq s hh] at h
    cases hn : (sampled s).nmiPending with
    | true => rw [hn] at h; cases h
    | false =>
      cases hi : (sampled s).irqLine && !flagI (sampled s).p with
      | true => rw [hn, hi] at h; cases h
      | false =>
        rw [hn, hi] at h
        cases h
        refine ⟨rfl, rfl, rfl, ?_⟩
        cases h1 : (sampled s).irqLine <;> cases h2 : flagI (sampled s).p <;> simp_all

@[simp] theorem sampled_a (s : State) : (sampled s).a = s.a := by simp [sampled]

@[simp] theorem sampled_x (s : State) : (sampled s).x = s.x := by simp [sampled]

@[simp] theorem sampled_y (s : State) : (sampled s).y = s.y := by simp [sampled]

@[simp] theorem sampled_sp (s : State) : (sampled s).sp = s.sp := by simp [sampled]

@[simp] theorem sampled_p (s : State) : (sampled s).p = s.p := by simp [sampled]

@[simp] theorem sampled_pc (s : State) : (sampled s).pc = s.pc := by simp [sampled]

@[simp] theorem sampled_cycles (s : State) : (sampled s).cycles = s.cycles := by simp [sampled]

@[simp] theorem sampled_halted (s : State) : (sampled s).halted = s.halted := by simp [sampled]

@[simp] theorem sampled_dmaPage (s : State) : (sampled s).dmaPage = s.dmaPage := by simp [sampled]

@[simp] theorem sampled_ram (s : State) : (sampled s).ram = s.ram := by simp [sampled]

@[simp] theorem sampled_cart (s : State) : (sampled s).cart = s.cart := by simp [sampled]

@[simp] theorem sampled_bus (s : State) : (sampled s).out.bus = [] := by simp [sampled]

@[simp] theorem sampled_returned (s : State) : (sampled s).out.returned = none := by simp [sampled]

@[simp] theorem sampled_irqLine (s : State) : (sampled s).irqLine = irqLevel s := by
  simp only [sampled, pollNmi_irqLine, irqLevel, nextIrq, beginStep, State.setOut_env]
  cases s.env.irqPlan <;> rfl

theorem nmiLevel_sampling (s : State) : nmiLevel (nextIrq (beginStep s)) = nmiLevel s :=
  nmiLevel_congr (by simp) (by simp)

@[simp] theorem sampled_nmiPending (s : State) : (sampled s).nmiPending = nmiSeen s := by
  simp [sampled, nmiLevel_sampling, nmiSeen]

@[simp] theorem sampled_nmiPrev (s : State) : (sampled s).nmiPrev = nmiLevel s := by
  simp [sampled, nmiLevel_sampling]

@[simp] theorem sampled_ports (s : State) : (sampled s).out.ports = .pollNmi (nmiLevel s) :: s.out.ports := by
  simp [sampled, nmiLevel_sampling]

/-! ## The fetch -/

theorem fetch_eq (s : State) : fetch s = ((busRead s.pc s).1, (busRead s.pc s).2.setPC (s.pc + 1)) := by
  simp [fetch]

theorem readBytes_succ (n : Nat) (s : State) :
    readBytes (n + 1) s = ((fetch s).1 :: (readBytes n (fetch s).2).1, (readBytes n (fetch s).2).2) := rfl

/-- The fetch, by the format of the opcode byte. -/
theorem fetchInstr_eq (s : State) : fetchInstr s =
    match formatOf (busRead s.pc s).1 with
    | none => .bad (busRead s.pc s).1 s.pc ((busRead s.pc s).2.setHalted true)
    | some (.one i) => .instr i (fetch s).2
    | some (.two mk) => .instr (mk (fetch (fetch s).2).1) (fetch (fetch s).2).2
    | some (.three mk) => .instr (mk (wordOf (fetch (fetch (fetch s).2).2).1 (fetch (fetch s).2).1))
        (fetch (fetch (fetch s).2).2).2 := by
  simp only [fetchInstr, fetch_eq]
  all_goals (cases formatOf (busRead s.pc s).1 with
    | none => rfl
    | some f => cases f <;> rfl)

/-! ## Every instruction is a chain of primitive acts -/

/-- The machines a chain of register writes, bus transactions and re-polls leads to. A write of P keeps bits 5 and 4 as
they must be. -/
inductive Acts : State → State → Prop where
  | refl (s : State) : Acts s s
  | setA {s t : State} (v : Byte) (h : Acts s t) : Acts s (t.setA v)
  | setX {s t : State} (v : Byte) (h : Acts s t) : Acts s (t.setX v)
  | setY {s t : State} (v : Byte) (h : Acts s t) : Acts s (t.setY v)
  | setSP {s t : State} (v : Byte) (h : Acts s t) : Acts s (t.setSP v)
  | setPC {s t : State} (w : Word) (h : Acts s t) : Acts s (t.setPC w)
  | setP {s t : State} (q : Byte) (hq : t.p &&& 0x30 = 0x20 → q &&& 0x30 = 0x20) (h : Acts s t) : Acts s (t.setP q)
  | read {s t : State} (a : Word) (h : Acts s t) : Acts s (busRead a t).2
  | write {s t : State} (a : Word) (v : Byte) (h : Acts s t) : Acts s (busWrite a v t)
  | hijack {s t : State} (vector : Word) (h : Acts s t) : Acts s (hijack vector t).2

namespace Acts

theorem push {s t : State} (v : Byte) (h : Acts s t) : Acts s (push v t) := .setSP _ (.write _ _ h)

theorem pull {s t : State} (h : Acts s t) : Acts s (pull t).2 := .read _ (.setSP _ h)

theorem pushWord {s t : State} (w : Word) (h : Acts s t) : Acts s (pushWord w t) := .push _ (.push _ h)

theorem pullWord {s t : State} (h : Acts s t) : Acts s (pullWord t).2 := .pull (.pull h)

theorem readPair {s t : State} (lo hi : Word) (h : Acts s t) : Acts s (readPair lo hi t).2 := .read _ (.read _ h)

theorem effective {s t : State} (o : Operand) (h : Acts s t) : Acts s (effective o t).2 := by
  cases o with
  | indirect a => exact .readPair _ _ h
  | indirectX z => exact .readPair _ _ h
  | indirectY z => exact .readPair _ _ h
  | _ => exact h

theorem readOperand {s t : State} (o : Operand) (h : Acts s t) : Acts s (readOperand o t).after := by
  cases o with
  | immediate v => exact h
  | _ => rw [readOperand_eq _ _ (by simp)]; exact .read _ (.effective _ h)

theorem interruptEntry {s t : State} (vector : Word) (b hijackable : Bool) (h : Acts s t) :
    Acts s (interruptEntry vector b hijackable t) := by
  rw [interruptEntry_eq, read16_eq]
  refine .setPC _ (.readPair _ _ ?_)
  cases hijackable
  · refine .setP _ ?_ (.push _ (.pushWord _ h))
    intro hp
    simp only [Bool.false_eq_true, if_false, push_p, pushWord_eq] at hp
    rwa [setI_and _ _ _ (by decide)]
  · refine .setP _ ?_ (.hijack _ (.push _ (.pushWord _ h)))
    intro hp
    simp only [if_true, hijack_p, push_p, pushWord_eq] at hp
    rwa [setI_and _ _ _ (by decide)]

theorem returnFromInterrupt {s t : State} (h : Acts s t) : Acts s (returnFromInterrupt t) := by
  rw [returnFromInterrupt_eq]
  exact .setPC _ (.pullWord (.setP _ (fun _ => pulledStatus_and _) (.pull h)))

end Acts

/-- A result and a P that keep bits 5 and 4. -/
def KeepsFixedBits (f : Byte → Byte → Byte × Byte) : Prop := ∀ v p, (f v p).2 &&& 0x30 = p &&& 0x30

/-- What an instruction answers: the end of a step of 2 to 7 cycles after a chain of acts. -/
def Answers (s : State) (r : Host.Outcome State Fault Refusal) : Prop :=
  ∃ n u, r = .next (endStep n u) ∧ Acts s u ∧ 2 ≤ n ∧ n ≤ 7

theorem cyclesOf_range (base : Nat) (p c : Bool) : base ≤ cyclesOf base p c ∧ cyclesOf base p c ≤ base + 1 := by
  unfold cyclesOf; split <;> omega

theorem answers_readInstr (o : Operand) (base : Nat) (pen : Bool) (f : Byte → State → State) (s : State)
    (hf : ∀ m t, Acts s t → Acts s (f m t)) (h2 : 2 ≤ base) (h6 : base ≤ 6) :
    Answers s (readInstr o base pen f s) :=
  ⟨_, _, readInstr_eq o base pen f s, hf _ _ (.readOperand o (.refl s)),
    by have := (cyclesOf_range base pen (readOperand o s).crossed).1; omega,
    by have := (cyclesOf_range base pen (readOperand o s).crossed).2; omega⟩

theorem answers_storeInstr (o : Operand) (base : Nat) (v : State → Byte) (s : State) (h2 : 2 ≤ base) (h7 : base ≤ 7) :
    Answers s (storeInstr o base v s) :=
  ⟨_, _, storeInstr_eq o base v s, .write _ _ (.effective o (.refl s)), h2, h7⟩

theorem answers_rmwInstr (o : Operand) (base : Nat) (f : Byte → Byte → Byte × Byte) (s : State)
    (hf : KeepsFixedBits f) (h2 : 2 ≤ base) (h7 : base ≤ 7) : Answers s (rmwInstr o base f s) :=
  ⟨_, _, rmwInstr_eq o base f s,
    .setP _ (fun hp => by rw [hf]; simpa using hp) (.write _ _ (.read _ (.effective o (.refl s)))), h2, h7⟩

theorem answers_accInstr (f : Byte → Byte → Byte × Byte) (s : State) (hf : KeepsFixedBits f) :
    Answers s (accInstr f s) :=
  ⟨_, _, accInstr_eq f s, .setP _ (fun hp => by rw [hf]; simpa using hp) (.setA _ (.refl s)), by omega, by omega⟩

theorem answers_impliedInstr (n : Nat) (f : State → State) (s : State) (hf : Acts s (f s)) (h2 : 2 ≤ n) (h7 : n ≤ 7) :
    Answers s (impliedInstr n f s) := ⟨_, _, impliedInstr_eq n f s, hf, h2, h7⟩

theorem answers_branchInstr (cond : Byte → Bool) (d : Byte) (s : State) : Answers s (branchInstr cond d s) := by
  rw [branchInstr_eq]
  split
  · exact ⟨_, _, rfl, .setPC _ (.refl s),
      by have := (cyclesOf_range 3 true (pageDiffers (branchTarget d s.pc) s.pc)).1; omega,
      by have := (cyclesOf_range 3 true (pageDiffers (branchTarget d s.pc) s.pc)).2; omega⟩
  · exact ⟨_, _, rfl, .refl s, by omega, by omega⟩

theorem aslOp_keeps : KeepsFixedBits aslOp := fun v p => shiftFlags_and _ _ p _ (by decide) (by decide) (by decide)

theorem lsrOp_keeps : KeepsFixedBits lsrOp := fun v p => shiftFlags_and _ _ p _ (by decide) (by decide) (by decide)

theorem rolOp_keeps : KeepsFixedBits rolOp := fun v p => shiftFlags_and _ _ p _ (by decide) (by decide) (by decide)

theorem rorOp_keeps : KeepsFixedBits rorOp := fun v p => shiftFlags_and _ _ p _ (by decide) (by decide) (by decide)

theorem incOp_keeps : KeepsFixedBits incOp := fun v p => setZN_and _ p _ (by decide) (by decide)

theorem decOp_keeps : KeepsFixedBits decOp := fun v p => setZN_and _ p _ (by decide) (by decide)

end Sys2Proof.Machine
end

