-- ==== Sys2Proof/Laws/Exec.lean ====
section
/-! SUPPORT. Every instruction's meaning as a chain of primitive acts: one lemma per effect, then one for `exec` and one
for `step`, which a later proof cites instead of splitting the 151 arms. -/

namespace Sys2Proof.Machine

/-! ## The effects -/

theorem acts_ldaEffect {s t : State} (m : Byte) (h : Acts s t) : Acts s (ldaEffect m t) :=
  .setP _ (fun hp => by rw [setZN_and _ _ _ (by decide) (by decide)]; simpa using hp) (.setA _ h)

theorem acts_ldxEffect {s t : State} (m : Byte) (h : Acts s t) : Acts s (ldxEffect m t) :=
  .setP _ (fun hp => by rw [setZN_and _ _ _ (by decide) (by decide)]; simpa using hp) (.setX _ h)

theorem acts_ldyEffect {s t : State} (m : Byte) (h : Acts s t) : Acts s (ldyEffect m t) :=
  .setP _ (fun hp => by rw [setZN_and _ _ _ (by decide) (by decide)]; simpa using hp) (.setY _ h)

theorem acts_andEffect {s t : State} (m : Byte) (h : Acts s t) : Acts s (andEffect m t) :=
  .setP _ (fun hp => by rw [setZN_and _ _ _ (by decide) (by decide)]; simpa using hp) (.setA _ h)

theorem acts_oraEffect {s t : State} (m : Byte) (h : Acts s t) : Acts s (oraEffect m t) :=
  .setP _ (fun hp => by rw [setZN_and _ _ _ (by decide) (by decide)]; simpa using hp) (.setA _ h)

theorem acts_eorEffect {s t : State} (m : Byte) (h : Acts s t) : Acts s (eorEffect m t) :=
  .setP _ (fun hp => by rw [setZN_and _ _ _ (by decide) (by decide)]; simpa using hp) (.setA _ h)

theorem acts_bitEffect {s t : State} (m : Byte) (h : Acts s t) : Acts s (bitEffect m t) :=
  .setP _ (fun hp => by rwa [bitFlags_and _ _ _ _ (by decide) (by decide) (by decide)]) h

theorem acts_cmpEffect {s t : State} (m : Byte) (h : Acts s t) : Acts s (cmpEffect m t) :=
  .setP _ (fun hp => by rwa [compareFlags_and _ _ _ _ (by decide) (by decide) (by decide)]) h

theorem acts_cpxEffect {s t : State} (m : Byte) (h : Acts s t) : Acts s (cpxEffect m t) :=
  .setP _ (fun hp => by rwa [compareFlags_and _ _ _ _ (by decide) (by decide) (by decide)]) h

theorem acts_cpyEffect {s t : State} (m : Byte) (h : Acts s t) : Acts s (cpyEffect m t) :=
  .setP _ (fun hp => by rwa [compareFlags_and _ _ _ _ (by decide) (by decide) (by decide)]) h

theorem acts_addCore {s t : State} (m : Byte) (h : Acts s t) : Acts s (addCore m t) :=
  .setP _ (fun hp => by rw [addFlags_and _ _ _ _ (by decide) (by decide) (by decide) (by decide)]; simpa using hp)
    (.setA _ h)

theorem acts_sbcEffect {s t : State} (m : Byte) (h : Acts s t) : Acts s (sbcEffect m t) := acts_addCore _ h

theorem acts_taxEffect (s : State) : Acts s (taxEffect s) :=
  .setP _ (fun hp => by rw [setZN_and _ _ _ (by decide) (by decide)]; simpa using hp) (.setX _ (.refl s))

theorem acts_txaEffect (s : State) : Acts s (txaEffect s) :=
  .setP _ (fun hp => by rw [setZN_and _ _ _ (by decide) (by decide)]; simpa using hp) (.setA _ (.refl s))

theorem acts_tayEffect (s : State) : Acts s (tayEffect s) :=
  .setP _ (fun hp => by rw [setZN_and _ _ _ (by decide) (by decide)]; simpa using hp) (.setY _ (.refl s))

theorem acts_tyaEffect (s : State) : Acts s (tyaEffect s) :=
  .setP _ (fun hp => by rw [setZN_and _ _ _ (by decide) (by decide)]; simpa using hp) (.setA _ (.refl s))

theorem acts_tsxEffect (s : State) : Acts s (tsxEffect s) :=
  .setP _ (fun hp => by rw [setZN_and _ _ _ (by decide) (by decide)]; simpa using hp) (.setX _ (.refl s))

theorem acts_inxEffect (s : State) : Acts s (inxEffect s) :=
  .setP _ (fun hp => by rw [setZN_and _ _ _ (by decide) (by decide)]; simpa using hp) (.setX _ (.refl s))

theorem acts_inyEffect (s : State) : Acts s (inyEffect s) :=
  .setP _ (fun hp => by rw [setZN_and _ _ _ (by decide) (by decide)]; simpa using hp) (.setY _ (.refl s))

theorem acts_dexEffect (s : State) : Acts s (dexEffect s) :=
  .setP _ (fun hp => by rw [setZN_and _ _ _ (by decide) (by decide)]; simpa using hp) (.setX _ (.refl s))

theorem acts_deyEffect (s : State) : Acts s (deyEffect s) :=
  .setP _ (fun hp => by rw [setZN_and _ _ _ (by decide) (by decide)]; simpa using hp) (.setY _ (.refl s))

theorem acts_txsEffect (s : State) : Acts s (txsEffect s) := .setSP _ (.refl s)

theorem acts_phaEffect (s : State) : Acts s (phaEffect s) := .push _ (.refl s)

theorem acts_phpEffect (s : State) : Acts s (phpEffect s) := .push _ (.refl s)

theorem acts_plaEffect (s : State) : Acts s (plaEffect s) :=
  .setP _ (fun hp => by rw [setZN_and _ _ _ (by decide) (by decide)]; simpa using hp) (.setA _ (.pull (.refl s)))

theorem acts_plpEffect (s : State) : Acts s (plpEffect s) :=
  .setP _ (fun _ => pulledStatus_and _) (.pull (.refl s))

theorem acts_jsrEffect (a : Word) (s : State) : Acts s (jsrEffect a s) := .setPC _ (.pushWord _ (.refl s))

theorem acts_rtsEffect (s : State) : Acts s (rtsEffect s) := .setPC _ (.pullWord (.refl s))

theorem acts_brkEffect (s : State) : Acts s (brkEffect s) := .interruptEntry _ _ _ (.setPC _ (.refl s))

/-! ## Every instruction -/

/-- Every instruction, on every machine, answers the end of a step of 2 to 7 cycles after a chain of primitive acts. -/
theorem exec_answers (i : Instr) (s : State) : Answers s (exec i s) := by
  cases i with
  | ldaImm v => rw [exec_ldaImm]; exact answers_readInstr _ _ _ _ s (fun m _ => acts_ldaEffect m) (by decide) (by decide)
  | ldaZp z => rw [exec_ldaZp]; exact answers_readInstr _ _ _ _ s (fun m _ => acts_ldaEffect m) (by decide) (by decide)
  | ldaZpx z => rw [exec_ldaZpx]; exact answers_readInstr _ _ _ _ s (fun m _ => acts_ldaEffect m) (by decide) (by decide)
  | ldaAbs a => rw [exec_ldaAbs]; exact answers_readInstr _ _ _ _ s (fun m _ => acts_ldaEffect m) (by decide) (by decide)
  | ldaAbx a => rw [exec_ldaAbx]; exact answers_readInstr _ _ _ _ s (fun m _ => acts_ldaEffect m) (by decide) (by decide)
  | ldaAby a => rw [exec_ldaAby]; exact answers_readInstr _ _ _ _ s (fun m _ => acts_ldaEffect m) (by decide) (by decide)
  | ldaIzx z => rw [exec_ldaIzx]; exact answers_readInstr _ _ _ _ s (fun m _ => acts_ldaEffect m) (by decide) (by decide)
  | ldaIzy z => rw [exec_ldaIzy]; exact answers_readInstr _ _ _ _ s (fun m _ => acts_ldaEffect m) (by decide) (by decide)
  | ldxImm v => rw [exec_ldxImm]; exact answers_readInstr _ _ _ _ s (fun m _ => acts_ldxEffect m) (by decide) (by decide)
  | ldxZp z => rw [exec_ldxZp]; exact answers_readInstr _ _ _ _ s (fun m _ => acts_ldxEffect m) (by decide) (by decide)
  | ldxZpy z => rw [exec_ldxZpy]; exact answers_readInstr _ _ _ _ s (fun m _ => acts_ldxEffect m) (by decide) (by decide)
  | ldxAbs a => rw [exec_ldxAbs]; exact answers_readInstr _ _ _ _ s (fun m _ => acts_ldxEffect m) (by decide) (by decide)
  | ldxAby a => rw [exec_ldxAby]; exact answers_readInstr _ _ _ _ s (fun m _ => acts_ldxEffect m) (by decide) (by decide)
  | ldyImm v => rw [exec_ldyImm]; exact answers_readInstr _ _ _ _ s (fun m _ => acts_ldyEffect m) (by decide) (by decide)
  | ldyZp z => rw [exec_ldyZp]; exact answers_readInstr _ _ _ _ s (fun m _ => acts_ldyEffect m) (by decide) (by decide)
  | ldyZpx z => rw [exec_ldyZpx]; exact answers_readInstr _ _ _ _ s (fun m _ => acts_ldyEffect m) (by decide) (by decide)
  | ldyAbs a => rw [exec_ldyAbs]; exact answers_readInstr _ _ _ _ s (fun m _ => acts_ldyEffect m) (by decide) (by decide)
  | ldyAbx a => rw [exec_ldyAbx]; exact answers_readInstr _ _ _ _ s (fun m _ => acts_ldyEffect m) (by decide) (by decide)
  | staZp z => rw [exec_staZp]; exact answers_storeInstr _ _ _ s (by decide) (by decide)
  | staZpx z => rw [exec_staZpx]; exact answers_storeInstr _ _ _ s (by decide) (by decide)
  | staAbs a => rw [exec_staAbs]; exact answers_storeInstr _ _ _ s (by decide) (by decide)
  | staAbx a => rw [exec_staAbx]; exact answers_storeInstr _ _ _ s (by decide) (by decide)
  | staAby a => rw [exec_staAby]; exact answers_storeInstr _ _ _ s (by decide) (by decide)
  | staIzx z => rw [exec_staIzx]; exact answers_storeInstr _ _ _ s (by decide) (by decide)
  | staIzy z => rw [exec_staIzy]; exact answers_storeInstr _ _ _ s (by decide) (by decide)
  | stxZp z => rw [exec_stxZp]; exact answers_storeInstr _ _ _ s (by decide) (by decide)
  | stxZpy z => rw [exec_stxZpy]; exact answers_storeInstr _ _ _ s (by decide) (by decide)
  | stxAbs a => rw [exec_stxAbs]; exact answers_storeInstr _ _ _ s (by decide) (by decide)
  | styZp z => rw [exec_styZp]; exact answers_storeInstr _ _ _ s (by decide) (by decide)
  | styZpx z => rw [exec_styZpx]; exact answers_storeInstr _ _ _ s (by decide) (by decide)
  | styAbs a => rw [exec_styAbs]; exact answers_storeInstr _ _ _ s (by decide) (by decide)
  | tax => rw [exec_tax]; exact answers_impliedInstr _ _ s (acts_taxEffect s) (by decide) (by decide)
  | txa => rw [exec_txa]; exact answers_impliedInstr _ _ s (acts_txaEffect s) (by decide) (by decide)
  | tay => rw [exec_tay]; exact answers_impliedInstr _ _ s (acts_tayEffect s) (by decide) (by decide)
  | tya => rw [exec_tya]; exact answers_impliedInstr _ _ s (acts_tyaEffect s) (by decide) (by decide)
  | tsx => rw [exec_tsx]; exact answers_impliedInstr _ _ s (acts_tsxEffect s) (by decide) (by decide)
  | txs => rw [exec_txs]; exact answers_impliedInstr _ _ s (acts_txsEffect s) (by decide) (by decide)
  | pha => rw [exec_pha]; exact answers_impliedInstr _ _ s (acts_phaEffect s) (by decide) (by decide)
  | pla => rw [exec_pla]; exact answers_impliedInstr _ _ s (acts_plaEffect s) (by decide) (by decide)
  | php => rw [exec_php]; exact answers_impliedInstr _ _ s (acts_phpEffect s) (by decide) (by decide)
  | plp => rw [exec_plp]; exact answers_impliedInstr _ _ s (acts_plpEffect s) (by decide) (by decide)
  | andImm v => rw [exec_andImm]; exact answers_readInstr _ _ _ _ s (fun m _ => acts_andEffect m) (by decide) (by decide)
  | andZp z => rw [exec_andZp]; exact answers_readInstr _ _ _ _ s (fun m _ => acts_andEffect m) (by decide) (by decide)
  | andZpx z => rw [exec_andZpx]; exact answers_readInstr _ _ _ _ s (fun m _ => acts_andEffect m) (by decide) (by decide)
  | andAbs a => rw [exec_andAbs]; exact answers_readInstr _ _ _ _ s (fun m _ => acts_andEffect m) (by decide) (by decide)
  | andAbx a => rw [exec_andAbx]; exact answers_readInstr _ _ _ _ s (fun m _ => acts_andEffect m) (by decide) (by decide)
  | andAby a => rw [exec_andAby]; exact answers_readInstr _ _ _ _ s (fun m _ => acts_andEffect m) (by decide) (by decide)
  | andIzx z => rw [exec_andIzx]; exact answers_readInstr _ _ _ _ s (fun m _ => acts_andEffect m) (by decide) (by decide)
  | andIzy z => rw [exec_andIzy]; exact answers_readInstr _ _ _ _ s (fun m _ => acts_andEffect m) (by decide) (by decide)
  | oraImm v => rw [exec_oraImm]; exact answers_readInstr _ _ _ _ s (fun m _ => acts_oraEffect m) (by decide) (by decide)
  | oraZp z => rw [exec_oraZp]; exact answers_readInstr _ _ _ _ s (fun m _ => acts_oraEffect m) (by decide) (by decide)
  | oraZpx z => rw [exec_oraZpx]; exact answers_readInstr _ _ _ _ s (fun m _ => acts_oraEffect m) (by decide) (by decide)
  | oraAbs a => rw [exec_oraAbs]; exact answers_readInstr _ _ _ _ s (fun m _ => acts_oraEffect m) (by decide) (by decide)
  | oraAbx a => rw [exec_oraAbx]; exact answers_readInstr _ _ _ _ s (fun m _ => acts_oraEffect m) (by decide) (by decide)
  | oraAby a => rw [exec_oraAby]; exact answers_readInstr _ _ _ _ s (fun m _ => acts_oraEffect m) (by decide) (by decide)
  | oraIzx z => rw [exec_oraIzx]; exact answers_readInstr _ _ _ _ s (fun m _ => acts_oraEffect m) (by decide) (by decide)
  | oraIzy z => rw [exec_oraIzy]; exact answers_readInstr _ _ _ _ s (fun m _ => acts_oraEffect m) (by decide) (by decide)
  | eorImm v => rw [exec_eorImm]; exact answers_readInstr _ _ _ _ s (fun m _ => acts_eorEffect m) (by decide) (by decide)
  | eorZp z => rw [exec_eorZp]; exact answers_readInstr _ _ _ _ s (fun m _ => acts_eorEffect m) (by decide) (by decide)
  | eorZpx z => rw [exec_eorZpx]; exact answers_readInstr _ _ _ _ s (fun m _ => acts_eorEffect m) (by decide) (by decide)
  | eorAbs a => rw [exec_eorAbs]; exact answers_readInstr _ _ _ _ s (fun m _ => acts_eorEffect m) (by decide) (by decide)
  | eorAbx a => rw [exec_eorAbx]; exact answers_readInstr _ _ _ _ s (fun m _ => acts_eorEffect m) (by decide) (by decide)
  | eorAby a => rw [exec_eorAby]; exact answers_readInstr _ _ _ _ s (fun m _ => acts_eorEffect m) (by decide) (by decide)
  | eorIzx z => rw [exec_eorIzx]; exact answers_readInstr _ _ _ _ s (fun m _ => acts_eorEffect m) (by decide) (by decide)
  | eorIzy z => rw [exec_eorIzy]; exact answers_readInstr _ _ _ _ s (fun m _ => acts_eorEffect m) (by decide) (by decide)
  | bitZp z => rw [exec_bitZp]; exact answers_readInstr _ _ _ _ s (fun m _ => acts_bitEffect m) (by decide) (by decide)
  | bitAbs a => rw [exec_bitAbs]; exact answers_readInstr _ _ _ _ s (fun m _ => acts_bitEffect m) (by decide) (by decide)
  | adcImm v => rw [exec_adcImm]; exact answers_readInstr _ _ _ _ s (fun m _ => acts_addCore m) (by decide) (by decide)
  | adcZp z => rw [exec_adcZp]; exact answers_readInstr _ _ _ _ s (fun m _ => acts_addCore m) (by decide) (by decide)
  | adcZpx z => rw [exec_adcZpx]; exact answers_readInstr _ _ _ _ s (fun m _ => acts_addCore m) (by decide) (by decide)
  | adcAbs a => rw [exec_adcAbs]; exact answers_readInstr _ _ _ _ s (fun m _ => acts_addCore m) (by decide) (by decide)
  | adcAbx a => rw [exec_adcAbx]; exact answers_readInstr _ _ _ _ s (fun m _ => acts_addCore m) (by decide) (by decide)
  | adcAby a => rw [exec_adcAby]; exact answers_readInstr _ _ _ _ s (fun m _ => acts_addCore m) (by decide) (by decide)
  | adcIzx z => rw [exec_adcIzx]; exact answers_readInstr _ _ _ _ s (fun m _ => acts_addCore m) (by decide) (by decide)
  | adcIzy z => rw [exec_adcIzy]; exact answers_readInstr _ _ _ _ s (fun m _ => acts_addCore m) (by decide) (by decide)
  | sbcImm v => rw [exec_sbcImm]; exact answers_readInstr _ _ _ _ s (fun m _ => acts_sbcEffect m) (by decide) (by decide)
  | sbcZp z => rw [exec_sbcZp]; exact answers_readInstr _ _ _ _ s (fun m _ => acts_sbcEffect m) (by decide) (by decide)
  | sbcZpx z => rw [exec_sbcZpx]; exact answers_readInstr _ _ _ _ s (fun m _ => acts_sbcEffect m) (by decide) (by decide)
  | sbcAbs a => rw [exec_sbcAbs]; exact answers_readInstr _ _ _ _ s (fun m _ => acts_sbcEffect m) (by decide) (by decide)
  | sbcAbx a => rw [exec_sbcAbx]; exact answers_readInstr _ _ _ _ s (fun m _ => acts_sbcEffect m) (by decide) (by decide)
  | sbcAby a => rw [exec_sbcAby]; exact answers_readInstr _ _ _ _ s (fun m _ => acts_sbcEffect m) (by decide) (by decide)
  | sbcIzx z => rw [exec_sbcIzx]; exact answers_readInstr _ _ _ _ s (fun m _ => acts_sbcEffect m) (by decide) (by decide)
  | sbcIzy z => rw [exec_sbcIzy]; exact answers_readInstr _ _ _ _ s (fun m _ => acts_sbcEffect m) (by decide) (by decide)
  | aslAcc => rw [exec_aslAcc]; exact answers_accInstr _ s aslOp_keeps
  | aslZp z => rw [exec_aslZp]; exact answers_rmwInstr _ _ _ s aslOp_keeps (by decide) (by decide)
  | aslZpx z => rw [exec_aslZpx]; exact answers_rmwInstr _ _ _ s aslOp_keeps (by decide) (by decide)
  | aslAbs a => rw [exec_aslAbs]; exact answers_rmwInstr _ _ _ s aslOp_keeps (by decide) (by decide)
  | aslAbx a => rw [exec_aslAbx]; exact answers_rmwInstr _ _ _ s aslOp_keeps (by decide) (by decide)
  | lsrAcc => rw [exec_lsrAcc]; exact answers_accInstr _ s lsrOp_keeps
  | lsrZp z => rw [exec_lsrZp]; exact answers_rmwInstr _ _ _ s lsrOp_keeps (by decide) (by decide)
  | lsrZpx z => rw [exec_lsrZpx]; exact answers_rmwInstr _ _ _ s lsrOp_keeps (by decide) (by decide)
  | lsrAbs a => rw [exec_lsrAbs]; exact answers_rmwInstr _ _ _ s lsrOp_keeps (by decide) (by decide)
  | lsrAbx a => rw [exec_lsrAbx]; exact answers_rmwInstr _ _ _ s lsrOp_keeps (by decide) (by decide)
  | rolAcc => rw [exec_rolAcc]; exact answers_accInstr _ s rolOp_keeps
  | rolZp z => rw [exec_rolZp]; exact answers_rmwInstr _ _ _ s rolOp_keeps (by decide) (by decide)
  | rolZpx z => rw [exec_rolZpx]; exact answers_rmwInstr _ _ _ s rolOp_keeps (by decide) (by decide)
  | rolAbs a => rw [exec_rolAbs]; exact answers_rmwInstr _ _ _ s rolOp_keeps (by decide) (by decide)
  | rolAbx a => rw [exec_rolAbx]; exact answers_rmwInstr _ _ _ s rolOp_keeps (by decide) (by decide)
  | rorAcc => rw [exec_rorAcc]; exact answers_accInstr _ s rorOp_keeps
  | rorZp z => rw [exec_rorZp]; exact answers_rmwInstr _ _ _ s rorOp_keeps (by decide) (by decide)
  | rorZpx z => rw [exec_rorZpx]; exact answers_rmwInstr _ _ _ s rorOp_keeps (by decide) (by decide)
  | rorAbs a => rw [exec_rorAbs]; exact answers_rmwInstr _ _ _ s rorOp_keeps (by decide) (by decide)
  | rorAbx a => rw [exec_rorAbx]; exact answers_rmwInstr _ _ _ s rorOp_keeps (by decide) (by decide)
  | cmpImm v => rw [exec_cmpImm]; exact answers_readInstr _ _ _ _ s (fun m _ => acts_cmpEffect m) (by decide) (by decide)
  | cmpZp z => rw [exec_cmpZp]; exact answers_readInstr _ _ _ _ s (fun m _ => acts_cmpEffect m) (by decide) (by decide)
  | cmpZpx z => rw [exec_cmpZpx]; exact answers_readInstr _ _ _ _ s (fun m _ => acts_cmpEffect m) (by decide) (by decide)
  | cmpAbs a => rw [exec_cmpAbs]; exact answers_readInstr _ _ _ _ s (fun m _ => acts_cmpEffect m) (by decide) (by decide)
  | cmpAbx a => rw [exec_cmpAbx]; exact answers_readInstr _ _ _ _ s (fun m _ => acts_cmpEffect m) (by decide) (by decide)
  | cmpAby a => rw [exec_cmpAby]; exact answers_readInstr _ _ _ _ s (fun m _ => acts_cmpEffect m) (by decide) (by decide)
  | cmpIzx z => rw [exec_cmpIzx]; exact answers_readInstr _ _ _ _ s (fun m _ => acts_cmpEffect m) (by decide) (by decide)
  | cmpIzy z => rw [exec_cmpIzy]; exact answers_readInstr _ _ _ _ s (fun m _ => acts_cmpEffect m) (by decide) (by decide)
  | cpxImm v => rw [exec_cpxImm]; exact answers_readInstr _ _ _ _ s (fun m _ => acts_cpxEffect m) (by decide) (by decide)
  | cpxZp z => rw [exec_cpxZp]; exact answers_readInstr _ _ _ _ s (fun m _ => acts_cpxEffect m) (by decide) (by decide)
  | cpxAbs a => rw [exec_cpxAbs]; exact answers_readInstr _ _ _ _ s (fun m _ => acts_cpxEffect m) (by decide) (by decide)
  | cpyImm v => rw [exec_cpyImm]; exact answers_readInstr _ _ _ _ s (fun m _ => acts_cpyEffect m) (by decide) (by decide)
  | cpyZp z => rw [exec_cpyZp]; exact answers_readInstr _ _ _ _ s (fun m _ => acts_cpyEffect m) (by decide) (by decide)
  | cpyAbs a => rw [exec_cpyAbs]; exact answers_readInstr _ _ _ _ s (fun m _ => acts_cpyEffect m) (by decide) (by decide)
  | incZp z => rw [exec_incZp]; exact answers_rmwInstr _ _ _ s incOp_keeps (by decide) (by decide)
  | incZpx z => rw [exec_incZpx]; exact answers_rmwInstr _ _ _ s incOp_keeps (by decide) (by decide)
  | incAbs a => rw [exec_incAbs]; exact answers_rmwInstr _ _ _ s incOp_keeps (by decide) (by decide)
  | incAbx a => rw [exec_incAbx]; exact answers_rmwInstr _ _ _ s incOp_keeps (by decide) (by decide)
  | decZp z => rw [exec_decZp]; exact answers_rmwInstr _ _ _ s decOp_keeps (by decide) (by decide)
  | decZpx z => rw [exec_decZpx]; exact answers_rmwInstr _ _ _ s decOp_keeps (by decide) (by decide)
  | decAbs a => rw [exec_decAbs]; exact answers_rmwInstr _ _ _ s decOp_keeps (by decide) (by decide)
  | decAbx a => rw [exec_decAbx]; exact answers_rmwInstr _ _ _ s decOp_keeps (by decide) (by decide)
  | inx => rw [exec_inx]; exact answers_impliedInstr _ _ s (acts_inxEffect s) (by decide) (by decide)
  | iny => rw [exec_iny]; exact answers_impliedInstr _ _ s (acts_inyEffect s) (by decide) (by decide)
  | dex => rw [exec_dex]; exact answers_impliedInstr _ _ s (acts_dexEffect s) (by decide) (by decide)
  | dey => rw [exec_dey]; exact answers_impliedInstr _ _ s (acts_deyEffect s) (by decide) (by decide)
  | bpl d => rw [exec_bpl]; exact answers_branchInstr _ _ s
  | bmi d => rw [exec_bmi]; exact answers_branchInstr _ _ s
  | bvc d => rw [exec_bvc]; exact answers_branchInstr _ _ s
  | bvs d => rw [exec_bvs]; exact answers_branchInstr _ _ s
  | bcc d => rw [exec_bcc]; exact answers_branchInstr _ _ s
  | bcs d => rw [exec_bcs]; exact answers_branchInstr _ _ s
  | bne d => rw [exec_bne]; exact answers_branchInstr _ _ s
  | beq d => rw [exec_beq]; exact answers_branchInstr _ _ s
  | jmpAbs a => rw [exec_jmpAbs]; exact answers_impliedInstr _ _ s (.setPC _ (.refl s)) (by decide) (by decide)
  | jmpInd a => rw [exec_jmpInd]; exact ⟨5, _, rfl, .setPC _ (.effective _ (.refl s)), by decide, by decide⟩
  | jsr a => rw [exec_jsr]; exact answers_impliedInstr _ _ s (acts_jsrEffect _ s) (by decide) (by decide)
  | rts => rw [exec_rts]; exact answers_impliedInstr _ _ s (acts_rtsEffect s) (by decide) (by decide)
  | brk => rw [exec_brk]; exact answers_impliedInstr _ _ s (acts_brkEffect s) (by decide) (by decide)
  | rti => rw [exec_rti]; exact answers_impliedInstr _ _ s (.returnFromInterrupt (.refl s)) (by decide) (by decide)
  | clc => rw [exec_clc]; exact answers_impliedInstr _ _ s (.setP _ (fun hp => by rwa [setC_and _ _ _ (by decide)]) (.refl s)) (by decide) (by decide)
  | sec => rw [exec_sec]; exact answers_impliedInstr _ _ s (.setP _ (fun hp => by rwa [setC_and _ _ _ (by decide)]) (.refl s)) (by decide) (by decide)
  | cli => rw [exec_cli]; exact answers_impliedInstr _ _ s (.setP _ (fun hp => by rwa [setI_and _ _ _ (by decide)]) (.refl s)) (by decide) (by decide)
  | sei => rw [exec_sei]; exact answers_impliedInstr _ _ s (.setP _ (fun hp => by rwa [setI_and _ _ _ (by decide)]) (.refl s)) (by decide) (by decide)
  | clv => rw [exec_clv]; exact answers_impliedInstr _ _ s (.setP _ (fun hp => by rwa [setV_and _ _ _ (by decide)]) (.refl s)) (by decide) (by decide)
  | cld => rw [exec_cld]; exact answers_impliedInstr _ _ s (.setP _ (fun hp => by rwa [setD_and _ _ _ (by decide)]) (.refl s)) (by decide) (by decide)
  | sed => rw [exec_sed]; exact answers_impliedInstr _ _ s (.setP _ (fun hp => by rwa [setD_and _ _ _ (by decide)]) (.refl s)) (by decide) (by decide)
  | nop => rw [exec_nop]; exact answers_impliedInstr _ _ s (.refl s) (by decide) (by decide)

/-- An instruction never faults and is never refused: its step has a next state. -/
theorem exec_next (i : Instr) (s : State) : ∃ t, exec i s = .next t := by
  obtain ⟨n, u, h, _⟩ := exec_answers i s
  exact ⟨_, h⟩

/-! ## The fetch and the step -/

theorem acts_fetch {s t : State} (h : Acts s t) : Acts s (fetch t).2 := by
  rw [fetch_eq]; exact .setPC _ (.read _ h)

/-- A fetch that finds an instruction is a chain of acts. -/
theorem acts_fetchInstr {s t : State} {i : Instr} (h : fetchInstr s = .instr i t) : Acts s t := by
  rw [fetchInstr_eq] at h
  cases hf : formatOf (busRead s.pc s).1 with
  | none => rw [hf] at h; cases h
  | some f =>
    rw [hf] at h
    cases f with
    | one j => cases h; exact acts_fetch (.refl s)
    | two mk => cases h; exact acts_fetch (acts_fetch (.refl s))
    | three mk => cases h; exact acts_fetch (acts_fetch (acts_fetch (.refl s)))

theorem Acts.trans {s t u : State} (h : Acts s t) (k : Acts t u) : Acts s u := by
  induction k with
  | refl => exact h
  | setA v _ ih => exact .setA v ih
  | setX v _ ih => exact .setX v ih
  | setY v _ ih => exact .setY v ih
  | setSP v _ ih => exact .setSP v ih
  | setPC w _ ih => exact .setPC w ih
  | setP q hq _ ih => exact .setP q hq ih
  | read a _ ih => exact .read a ih
  | write a v _ ih => exact .write a v ih
  | hijack v _ ih => exact .hijack v ih

/-- What a step can do: after the boundary's inputs, a chain of acts and the end of a step of 2 to 7 cycles, or a fault. -/
theorem step_cases (s : State) :
    (s.halted = true ∧ step s = .fault .halted) ∨
    (∃ op pc, s.halted = false ∧ step s = .fault (.badOpcode op pc)) ∨
    (∃ n u, s.halted = false ∧ step s = .next (endStep n u) ∧ 2 ≤ n ∧ n ≤ 7 ∧
      ((Acts ((sampled s).setNmiPending false) u) ∨ (Acts (sampled s) u ∧ (sampled s).nmiPending = false))) := by
  cases hh : s.halted with
  | true => exact .inl ⟨rfl, by unfold step; rw [boundary_halted s hh]⟩
  | false =>
    refine .inr ?_
    have hb := boundary_eq s hh
    cases hn : (sampled s).nmiPending with
    | true =>
      rw [hn, if_pos rfl] at hb
      refine .inr ⟨entryCycles, _, rfl, by unfold step; rw [hb], by decide, by decide, .inl ?_⟩
      exact .interruptEntry _ _ _ (.refl _)
    | false =>
      rw [hn, if_neg (by decide)] at hb
      cases hi : (sampled s).irqLine && !flagI (sampled s).p with
      | true =>
        rw [hi, if_pos rfl] at hb
        refine .inr ⟨entryCycles, _, rfl, by unfold step; rw [hb], by decide, by decide, .inr ⟨?_, rfl⟩⟩
        exact .interruptEntry _ _ _ (.refl _)
      | false =>
        rw [hi, if_neg (by decide)] at hb
        cases hf : fetchInstr (sampled s) with
        | bad op pc u => exact .inl ⟨op, pc, rfl, by unfold step; rw [hb]; dsimp only; rw [hf]⟩
        | instr i u =>
          obtain ⟨n, v, he, ha, h2, h7⟩ := exec_answers i u
          refine .inr ⟨n, v, rfl, by unfold step; rw [hb]; dsimp only; rw [hf]; exact he, h2, h7, .inr ⟨?_, rfl⟩⟩
          exact (acts_fetchInstr hf).trans ha

/-! ## What every chain of acts keeps -/

namespace Acts

theorem halted {s t : State} (h : Acts s t) : t.halted = s.halted := by
  induction h <;> simp_all

theorem cycles {s t : State} (h : Acts s t) : t.cycles = s.cycles := by
  induction h <;> simp_all

theorem irqLine {s t : State} (h : Acts s t) : t.irqLine = s.irqLine := by
  induction h <;> simp_all

/-- P keeps bits 5 and 4 as they must be. -/
theorem fixedBits {s t : State} (h : Acts s t) (hp : s.p &&& 0x30 = 0x20) : t.p &&& 0x30 = 0x20 := by
  induction h <;> simp_all

/-- No latched NMI is left behind. -/
theorem nmiPending {s t : State} (h : Acts s t) (hp : s.nmiPending = false) : t.nmiPending = false := by
  induction h with
  | hijack v _ ih =>
    rw [hijack_eq]; split
    · rfl
    next hn => simpa using hn
  | _ => simp_all

/-- ROM, CHR-RAM and the configuration. -/
theorem rom {s t : State} (h : Acts s t) : t.cart.prgRom = s.cart.prgRom ∧ t.cart.chrRom = s.cart.chrRom ∧
    t.cart.config = s.cart.config ∧ t.cart.chrRam = s.cart.chrRam := by
  induction h with
  | @write t a v _ ih =>
    by_cases ha : a.toNat < 0x4020
    · rwa [busWrite_cart_of_lt a v t ha]
    · rw [busWrite_at_cartridge a v t (by omega)]
      have k := cpuWrite_kept t.cart a v
      exact ⟨k.2.1.trans ih.1, k.2.2.1.trans ih.2.1, k.1.trans ih.2.2.1, k.2.2.2.trans ih.2.2.2⟩
  | _ => simp_all

/-- The cartridge's invariant. -/
theorem cartInv {s t : State} (h : Acts s t) (hc : s.cart.inv = true) : t.cart.inv = true := by
  induction h with
  | @write t a v _ ih =>
    by_cases ha : a.toNat < 0x4020
    · rwa [busWrite_cart_of_lt a v t ha]
    · rw [busWrite_at_cartridge a v t (by omega)]; exact Cart.inv_cpuWrite _ _ _ ih
  | _ => simp_all

/-- RAM's canonical form. -/
theorem ramWf {s t : State} (h : Acts s t) (hr : s.ram.wf ramSize = true) : t.ram.wf ramSize = true := by
  induction h with
  | @write t a v _ ih =>
    by_cases ha : a.toNat < 0x2000
    · rw [busWrite_at_ram a v t ha]; exact Memory.wf_write v (by unfold ramSize; omega) ih
    · rwa [busWrite_ram_of_le a v t (by omega)]
  | _ => simp_all

/-- Transactions are only ever added, and a chain with no write to `$8000-$FFFF` leaves the mapper alone. -/
theorem bus {s t : State} (h : Acts s t) : ∃ new, t.out.bus = new ++ s.out.bus ∧
    ((∀ a v, BusTxn.write a v ∈ new → a.toNat < 0x8000) →
      t.cart.board = s.cart.board ∧ t.cart.mirroring = s.cart.mirroring) := by
  induction h with
  | @read t a _ ih =>
    obtain ⟨new, hb, hm⟩ := ih
    refine ⟨.read a (busRead a t).1 :: new, by simp [hb], fun hw => ?_⟩
    simpa using hm fun b v hbv => hw b v (List.mem_cons_of_mem _ hbv)
  | @write t a v _ ih =>
    obtain ⟨new, hb, hm⟩ := ih
    refine ⟨.write a v :: new, by simp [hb], fun hw => ?_⟩
    have k := hm fun b w hbv => hw b w (List.mem_cons_of_mem _ hbv)
    have ha := hw a v (List.mem_cons_self ..)
    by_cases h4 : a.toNat < 0x4020
    · rw [busWrite_cart_of_lt a v t h4]; exact k
    · rw [busWrite_at_cartridge a v t (by omega)]
      have q := cpuWrite_board_of_lt t.cart a v ha
      exact ⟨q.1.trans k.1, q.2.trans k.2⟩
  | hijack v _ ih =>
    obtain ⟨new, hb, hm⟩ := ih
    refine ⟨new, ?_, by simpa using hm⟩
    rw [hijack_eq]; split <;> exact hb
  | refl => exact ⟨[], rfl, fun _ => ⟨rfl, rfl⟩⟩
  | _ => assumption

end Acts

end Sys2Proof.Machine
end

