-- ==== Sys2Proof/Laws/Fetch.lean ====
section
/-! SUPPORT. The decode table against the encoder, and what the fetch of an instruction reads. -/

namespace Sys2Proof.Machine

/-- What a format's instructions are encoded as, opcode byte first. -/
def EncodedAs (op : Byte) : Option Format → Prop
  | none => True
  | some (.one i) => encode i = [op]
  | some (.two mk) => ∀ b, encode (mk b) = [op, b]
  | some (.three mk) => ∀ w, encode (mk w) = [op, loByte w, hiByte w]

theorem encodedAs_formatAt (n m : Nat) (hn : n < 16) (hm : m < 16) :
    EncodedAs (BitVec.ofNat 8 (16 * n + m)) (formatAt n m) := by
  interval_cases n <;> interval_cases m <;> first | trivial | rfl | exact fun _ => rfl

/-- The decode table and the encoder agree on every opcode byte. -/
theorem encodedAs_formatOf (op : Byte) : EncodedAs op (formatOf op) := by
  have l := op.isLt
  have h := encodedAs_formatAt (op.toNat / 16) (op.toNat % 16) (by omega) (by omega)
  rwa [show 16 * (op.toNat / 16) + op.toNat % 16 = op.toNat by omega, BitVec.ofNat_toNat, BitVec.setWidth_eq] at h

/-- What a fetch finds is what the decoder finds in the bytes read from PC up, and it reads exactly that instruction. -/
theorem fetchInstr_reads (s : State) :
    match fetchInstr s with
    | .bad op pc t => op = (busRead s.pc s).1 ∧ formatOf op = none ∧ pc = s.pc ∧ t = (busRead s.pc s).2.setHalted true
    | .instr i t => ∃ n, n = (encode i).length ∧ (readBytes n s).1 = encode i ∧ t = (readBytes n s).2 ∧
        t.pc = s.pc + BitVec.ofNat 16 n ∧ ∃ rest, decode (readBytes 3 s).1 = .ok (i, rest) := by
  have hv : (fetch s).1 = (busRead s.pc s).1 := by rw [fetch_eq]
  have hpc : ∀ t : State, (fetch t).2.pc = t.pc + 1 := fun t => by simp [fetch_eq]
  have k := encodedAs_formatOf (busRead s.pc s).1
  rw [fetchInstr_eq]
  cases hf : formatOf (busRead s.pc s).1 with
  | none => exact ⟨rfl, hf, rfl, rfl⟩
  | some f =>
    rw [hf] at k
    cases f with
    | one i =>
      exact ⟨1, by rw [show encode i = _ from k]; rfl, by rw [show encode i = _ from k]; simp [readBytes, hv], rfl,
        by simp [hpc], _, by simp only [readBytes_succ, decode, hv, hf]; rfl⟩
    | two mk =>
      exact ⟨2, by rw [show encode (mk _) = _ from k _]; rfl,
        by rw [show encode (mk _) = _ from k _]; simp [readBytes, hv], rfl, by simp [hpc, BitVec.add_assoc], _,
        by simp only [readBytes_succ, decode, hv, hf]; rfl⟩
    | three mk =>
      exact ⟨3, by rw [show encode (mk _) = _ from k _]; rfl,
        by rw [show encode (mk _) = _ from k _]; simp [readBytes, hv, hiByte_wordOf, loByte_wordOf], rfl,
        by simp [hpc, BitVec.add_assoc], _, by simp only [readBytes_succ, decode, hv, hf]; rfl⟩

end Sys2Proof.Machine
end

