-- ==== Sys2Proof/Laws/Place.lean ====
section
/-! SUPPORT. Placing an instruction keeps the invariant: the memories stay in canonical form. -/

namespace Sys2Proof.Machine

theorem State.inv_iff (s : State) : s.inv = true ↔
    s.p &&& 0x30 = 0x20 ∧ s.dmaPage = none ∧ s.ram.wf ramSize = true ∧ s.cart.inv = true := by
  simp only [State.inv, Bool.and_eq_true, beq_iff_eq, and_assoc]

theorem Cart.banks_pos (c : Cart) (h : c.inv = true) : 1 ≤ c.config.prgBanks16k := by
  have w := ((Cart.inv_iff c).1 h).1
  simp only [CartConfig.wellFormed, Bool.and_eq_true, decide_eq_true_eq] at w
  exact w.1.1.1

theorem placeByte_cart (a : Word) (v : Byte) (s : State) (hp : placeable a s = true) (h : s.cart.inv = true) :
    (placeByte a v s).cart.inv = true := by
  unfold placeByte
  unfold placeable at hp
  cases ht : readTarget a with
  | cartridge =>
    simp only [ht, Bool.or_eq_true, decide_eq_true_eq, Bool.and_eq_true] at hp
    obtain ⟨h1, h2, h3, h4, h5, h6⟩ := (Cart.inv_iff _).1 h
    dsimp only
    split
    next h8 =>
      refine (Cart.inv_iff _).2 ⟨h1, h2, h3, ?_, h5, h6⟩
      have hr : s.cart.config.hasPrgRam = true := by
        rcases hp with hp | hp
        · omega
        · have q := hp.2
          unfold Cart.prgRamPresent at q
          cases hb : s.cart.board with
          | nrom => simpa [hb] using q
          | mmc1 r => rw [hb] at h6; simp only [Bool.and_eq_true] at h6; exact h6.1
      simp only [hr, if_true, State.setCart_cart] at h4 ⊢
      exact Memory.wf_write v (by unfold prgRamSize; omega) h4
    next h8 =>
      exact (Cart.inv_iff _).2
        ⟨h1, Memory.wf_write v (Cart.prgIndex_lt _ a (Cart.banks_pos _ h)) h2, h3, h4, h5, h6⟩
  | _ => exact h

/-- A placed byte keeps the invariant. -/
theorem placeByte_inv (a : Word) (v : Byte) (s : State) (hp : placeable a s = true) (h : s.inv = true) :
    (placeByte a v s).inv = true := by
  have hc := placeByte_cart a v s hp ((State.inv_iff s).1 h).2.2.2
  obtain ⟨h1, h2, h3, h4⟩ := (State.inv_iff s).1 h
  refine (State.inv_iff _).2 ⟨?_, ?_, ?_, hc⟩
  · unfold placeByte; cases readTarget a <;> first | exact h1 | (dsimp only; split <;> exact h1)
  · unfold placeByte; cases readTarget a <;> first | exact h2 | (dsimp only; split <;> exact h2)
  · by_cases hl : a.toNat < 0x2000
    · simp only [placeByte, readTarget_ram a hl, State.setRam_ram]
      exact Memory.wf_write v (by unfold ramSize; omega) h3
    · unfold placeByte
      cases ht : readTarget a with
      | ram cell =>
        unfold readTarget at ht
        rw [if_neg hl] at ht
        split_ifs at ht
      | cartridge => dsimp only; split <;> exact h3
      | _ => exact h3

/-- Whether a cell can be given a byte does not change by giving bytes. -/
theorem placeable_placeByte (a b : Word) (v : Byte) (s : State) : placeable b (placeByte a v s) = placeable b s := by
  unfold placeable
  have e : (placeByte a v s).cart.prgRamPresent = s.cart.prgRamPresent := by
    unfold placeByte
    cases readTarget a <;> first | rfl | (dsimp only; split <;> rfl)
  rw [e]

theorem placeBytes_inv (bs : List Byte) (a : Word) (s : State) (h : s.inv = true)
    (hp : ∀ k, k < bs.length → placeable (a + BitVec.ofNat 16 k) s = true) : (placeBytes a bs s).inv = true := by
  induction bs generalizing a s with
  | nil => exact h
  | cons b bs ih =>
    have h0 := hp 0 (by simp)
    simp only [BitVec.add_zero] at h0
    refine ih (a + 1) (placeByte a b s) (placeByte_inv a b s h0 h) fun k hk => ?_
    rw [placeable_placeByte]
    have q := hp (k + 1) (by simpa using hk)
    rwa [Nat.add_comm k 1, BitVec.ofNat_add, ← BitVec.add_assoc] at q

theorem readyToFetch_inv (s : State) (h : s.inv = true) : (readyToFetch s).inv = true := h

/-- Placing three bytes where the next step fetches keeps the invariant. -/
theorem placeInstr_inv (bs : List Byte) (s : State) (h : s.inv = true) (hb : bs.length ≤ 3) :
    (placeInstr bs s).inv = true := by
  unfold placeInstr
  dsimp only
  split
  next hp =>
    simp only [Bool.and_eq_true] at hp
    refine placeBytes_inv bs _ _ (readyToFetch_inv s h) fun k hk => ?_
    have hk3 : k < 3 := by omega
    interval_cases k
    · simpa using hp.1.1
    · exact hp.1.2
    · exact hp.2
  · refine placeBytes_inv bs _ _ h fun k hk => ?_
    have hk3 : k < 3 := by omega
    interval_cases k <;> rfl

theorem withFetchWord_inv (s : State) (nbits w : Nat) (h : s.inv = true) : (s.withFetchWord nbits w).inv = true :=
  placeInstr_inv _ s h (Nat.le_refl 3)

end Sys2Proof.Machine
end

