-- ==== Sys2Proof/Tests/Slice0.lean ====
section
/-! SUPPORT. The model's own tests. Every expected value is written out from spec/: the encodings of R100, R103 and R105,
and the vectors of spec/95_test_vectors.md, whose id a test's name carries. A theorem `witness_X` shows a concrete
state and operands that meet the hypotheses of the statement `X`, clause by clause at the ends of its ranges. -/

namespace Sys2Proof.Tests

open Sys2Proof Sys2Proof.Machine

/-! ## WellFormed: an ill-formed cartridge configuration for each check -/

/-- No PRG bank (R71 (4)). -/
theorem test_wf_no_prg_bank : CartConfig.wellFormed ⟨0, 1, false, .horizontal⟩ = false := by decide

/-- 256 PRG banks: the header has one byte for them. -/
theorem test_wf_too_many_prg_banks : CartConfig.wellFormed ⟨256, 1, false, .horizontal⟩ = false := by decide

/-- 256 CHR banks. -/
theorem test_wf_too_many_chr_banks : CartConfig.wellFormed ⟨1, 256, false, .horizontal⟩ = false := by decide

/-- A mirroring no image can name (R70). -/
theorem test_wf_mirroring_not_from_image : CartConfig.wellFormed ⟨1, 1, false, .oneScreenLow⟩ = false := by decide

/-- The legal ends of the ranges. -/
theorem test_wf_legal : CartConfig.wellFormed ⟨1, 0, true, .fourScreen⟩ = true ∧
    CartConfig.wellFormed ⟨255, 255, false, .vertical⟩ = true := by decide

/-! ## Decoding: every constructor by the bytes R105 and R103 give it, one row of the table of R105 a theorem -/

/-- Row 0x of R105: 9 opcodes. -/
theorem test_decode_row_0 :
    decode [0x00] = .ok (.brk, []) ∧
    decode [0x01, 0x12] = .ok (.oraIzx 0x12, []) ∧
    decode [0x05, 0x12] = .ok (.oraZp 0x12, []) ∧
    decode [0x06, 0x12] = .ok (.aslZp 0x12, []) ∧
    decode [0x08] = .ok (.php, []) ∧
    decode [0x09, 0x12] = .ok (.oraImm 0x12, []) ∧
    decode [0x0A] = .ok (.aslAcc, []) ∧
    decode [0x0D, 0x34, 0x12] = .ok (.oraAbs 0x1234, []) ∧
    decode [0x0E, 0x34, 0x12] = .ok (.aslAbs 0x1234, []) :=
  ⟨rfl, rfl, rfl, rfl, rfl, rfl, rfl, rfl, rfl⟩

/-- Row 1x of R105: 8 opcodes. -/
theorem test_decode_row_1 :
    decode [0x10, 0x12] = .ok (.bpl 0x12, []) ∧
    decode [0x11, 0x12] = .ok (.oraIzy 0x12, []) ∧
    decode [0x15, 0x12] = .ok (.oraZpx 0x12, []) ∧
    decode [0x16, 0x12] = .ok (.aslZpx 0x12, []) ∧
    decode [0x18] = .ok (.clc, []) ∧
    decode [0x19, 0x34, 0x12] = .ok (.oraAby 0x1234, []) ∧
    decode [0x1D, 0x34, 0x12] = .ok (.oraAbx 0x1234, []) ∧
    decode [0x1E, 0x34, 0x12] = .ok (.aslAbx 0x1234, []) :=
  ⟨rfl, rfl, rfl, rfl, rfl, rfl, rfl, rfl⟩

/-- Row 2x of R105: 11 opcodes. -/
theorem test_decode_row_2 :
    decode [0x20, 0x34, 0x12] = .ok (.jsr 0x1234, []) ∧
    decode [0x21, 0x12] = .ok (.andIzx 0x12, []) ∧
    decode [0x24, 0x12] = .ok (.bitZp 0x12, []) ∧
    decode [0x25, 0x12] = .ok (.andZp 0x12, []) ∧
    decode [0x26, 0x12] = .ok (.rolZp 0x12, []) ∧
    decode [0x28] = .ok (.plp, []) ∧
    decode [0x29, 0x12] = .ok (.andImm 0x12, []) ∧
    decode [0x2A] = .ok (.rolAcc, []) ∧
    decode [0x2C, 0x34, 0x12] = .ok (.bitAbs 0x1234, []) ∧
    decode [0x2D, 0x34, 0x12] = .ok (.andAbs 0x1234, []) ∧
    decode [0x2E, 0x34, 0x12] = .ok (.rolAbs 0x1234, []) :=
  ⟨rfl, rfl, rfl, rfl, rfl, rfl, rfl, rfl, rfl, rfl, rfl⟩

/-- Row 3x of R105: 8 opcodes. -/
theorem test_decode_row_3 :
    decode [0x30, 0x12] = .ok (.bmi 0x12, []) ∧
    decode [0x31, 0x12] = .ok (.andIzy 0x12, []) ∧
    decode [0x35, 0x12] = .ok (.andZpx 0x12, []) ∧
    decode [0x36, 0x12] = .ok (.rolZpx 0x12, []) ∧
    decode [0x38] = .ok (.sec, []) ∧
    decode [0x39, 0x34, 0x12] = .ok (.andAby 0x1234, []) ∧
    decode [0x3D, 0x34, 0x12] = .ok (.andAbx 0x1234, []) ∧
    decode [0x3E, 0x34, 0x12] = .ok (.rolAbx 0x1234, []) :=
  ⟨rfl, rfl, rfl, rfl, rfl, rfl, rfl, rfl⟩

/-- Row 4x of R105: 10 opcodes. -/
theorem test_decode_row_4 :
    decode [0x40] = .ok (.rti, []) ∧
    decode [0x41, 0x12] = .ok (.eorIzx 0x12, []) ∧
    decode [0x45, 0x12] = .ok (.eorZp 0x12, []) ∧
    decode [0x46, 0x12] = .ok (.lsrZp 0x12, []) ∧
    decode [0x48] = .ok (.pha, []) ∧
    decode [0x49, 0x12] = .ok (.eorImm 0x12, []) ∧
    decode [0x4A] = .ok (.lsrAcc, []) ∧
    decode [0x4C, 0x34, 0x12] = .ok (.jmpAbs 0x1234, []) ∧
    decode [0x4D, 0x34, 0x12] = .ok (.eorAbs 0x1234, []) ∧
    decode [0x4E, 0x34, 0x12] = .ok (.lsrAbs 0x1234, []) :=
  ⟨rfl, rfl, rfl, rfl, rfl, rfl, rfl, rfl, rfl, rfl⟩

/-- Row 5x of R105: 8 opcodes. -/
theorem test_decode_row_5 :
    decode [0x50, 0x12] = .ok (.bvc 0x12, []) ∧
    decode [0x51, 0x12] = .ok (.eorIzy 0x12, []) ∧
    decode [0x55, 0x12] = .ok (.eorZpx 0x12, []) ∧
    decode [0x56, 0x12] = .ok (.lsrZpx 0x12, []) ∧
    decode [0x58] = .ok (.cli, []) ∧
    decode [0x59, 0x34, 0x12] = .ok (.eorAby 0x1234, []) ∧
    decode [0x5D, 0x34, 0x12] = .ok (.eorAbx 0x1234, []) ∧
    decode [0x5E, 0x34, 0x12] = .ok (.lsrAbx 0x1234, []) :=
  ⟨rfl, rfl, rfl, rfl, rfl, rfl, rfl, rfl⟩

/-- Row 6x of R105: 10 opcodes. -/
theorem test_decode_row_6 :
    decode [0x60] = .ok (.rts, []) ∧
    decode [0x61, 0x12] = .ok (.adcIzx 0x12, []) ∧
    decode [0x65, 0x12] = .ok (.adcZp 0x12, []) ∧
    decode [0x66, 0x12] = .ok (.rorZp 0x12, []) ∧
    decode [0x68] = .ok (.pla, []) ∧
    decode [0x69, 0x12] = .ok (.adcImm 0x12, []) ∧
    decode [0x6A] = .ok (.rorAcc, []) ∧
    decode [0x6C, 0x34, 0x12] = .ok (.jmpInd 0x1234, []) ∧
    decode [0x6D, 0x34, 0x12] = .ok (.adcAbs 0x1234, []) ∧
    decode [0x6E, 0x34, 0x12] = .ok (.rorAbs 0x1234, []) :=
  ⟨rfl, rfl, rfl, rfl, rfl, rfl, rfl, rfl, rfl, rfl⟩

/-- Row 7x of R105: 8 opcodes. -/
theorem test_decode_row_7 :
    decode [0x70, 0x12] = .ok (.bvs 0x12, []) ∧
    decode [0x71, 0x12] = .ok (.adcIzy 0x12, []) ∧
    decode [0x75, 0x12] = .ok (.adcZpx 0x12, []) ∧
    decode [0x76, 0x12] = .ok (.rorZpx 0x12, []) ∧
    decode [0x78] = .ok (.sei, []) ∧
    decode [0x79, 0x34, 0x12] = .ok (.adcAby 0x1234, []) ∧
    decode [0x7D, 0x34, 0x12] = .ok (.adcAbx 0x1234, []) ∧
    decode [0x7E, 0x34, 0x12] = .ok (.rorAbx 0x1234, []) :=
  ⟨rfl, rfl, rfl, rfl, rfl, rfl, rfl, rfl⟩

/-- Row 8x of R105: 9 opcodes. -/
theorem test_decode_row_8 :
    decode [0x81, 0x12] = .ok (.staIzx 0x12, []) ∧
    decode [0x84, 0x12] = .ok (.styZp 0x12, []) ∧
    decode [0x85, 0x12] = .ok (.staZp 0x12, []) ∧
    decode [0x86, 0x12] = .ok (.stxZp 0x12, []) ∧
    decode [0x88] = .ok (.dey, []) ∧
    decode [0x8A] = .ok (.txa, []) ∧
    decode [0x8C, 0x34, 0x12] = .ok (.styAbs 0x1234, []) ∧
    decode [0x8D, 0x34, 0x12] = .ok (.staAbs 0x1234, []) ∧
    decode [0x8E, 0x34, 0x12] = .ok (.stxAbs 0x1234, []) :=
  ⟨rfl, rfl, rfl, rfl, rfl, rfl, rfl, rfl, rfl⟩

/-- Row 9x of R105: 9 opcodes. -/
theorem test_decode_row_9 :
    decode [0x90, 0x12] = .ok (.bcc 0x12, []) ∧
    decode [0x91, 0x12] = .ok (.staIzy 0x12, []) ∧
    decode [0x94, 0x12] = .ok (.styZpx 0x12, []) ∧
    decode [0x95, 0x12] = .ok (.staZpx 0x12, []) ∧
    decode [0x96, 0x12] = .ok (.stxZpy 0x12, []) ∧
    decode [0x98] = .ok (.tya, []) ∧
    decode [0x99, 0x34, 0x12] = .ok (.staAby 0x1234, []) ∧
    decode [0x9A] = .ok (.txs, []) ∧
    decode [0x9D, 0x34, 0x12] = .ok (.staAbx 0x1234, []) :=
  ⟨rfl, rfl, rfl, rfl, rfl, rfl, rfl, rfl, rfl⟩

/-- Row Ax of R105: 12 opcodes. -/
theorem test_decode_row_A :
    decode [0xA0, 0x12] = .ok (.ldyImm 0x12, []) ∧
    decode [0xA1, 0x12] = .ok (.ldaIzx 0x12, []) ∧
    decode [0xA2, 0x12] = .ok (.ldxImm 0x12, []) ∧
    decode [0xA4, 0x12] = .ok (.ldyZp 0x12, []) ∧
    decode [0xA5, 0x12] = .ok (.ldaZp 0x12, []) ∧
    decode [0xA6, 0x12] = .ok (.ldxZp 0x12, []) ∧
    decode [0xA8] = .ok (.tay, []) ∧
    decode [0xA9, 0x12] = .ok (.ldaImm 0x12, []) ∧
    decode [0xAA] = .ok (.tax, []) ∧
    decode [0xAC, 0x34, 0x12] = .ok (.ldyAbs 0x1234, []) ∧
    decode [0xAD, 0x34, 0x12] = .ok (.ldaAbs 0x1234, []) ∧
    decode [0xAE, 0x34, 0x12] = .ok (.ldxAbs 0x1234, []) :=
  ⟨rfl, rfl, rfl, rfl, rfl, rfl, rfl, rfl, rfl, rfl, rfl, rfl⟩

/-- Row Bx of R105: 11 opcodes. -/
theorem test_decode_row_B :
    decode [0xB0, 0x12] = .ok (.bcs 0x12, []) ∧
    decode [0xB1, 0x12] = .ok (.ldaIzy 0x12, []) ∧
    decode [0xB4, 0x12] = .ok (.ldyZpx 0x12, []) ∧
    decode [0xB5, 0x12] = .ok (.ldaZpx 0x12, []) ∧
    decode [0xB6, 0x12] = .ok (.ldxZpy 0x12, []) ∧
    decode [0xB8] = .ok (.clv, []) ∧
    decode [0xB9, 0x34, 0x12] = .ok (.ldaAby 0x1234, []) ∧
    decode [0xBA] = .ok (.tsx, []) ∧
    decode [0xBC, 0x34, 0x12] = .ok (.ldyAbx 0x1234, []) ∧
    decode [0xBD, 0x34, 0x12] = .ok (.ldaAbx 0x1234, []) ∧
    decode [0xBE, 0x34, 0x12] = .ok (.ldxAby 0x1234, []) :=
  ⟨rfl, rfl, rfl, rfl, rfl, rfl, rfl, rfl, rfl, rfl, rfl⟩

/-- Row Cx of R105: 11 opcodes. -/
theorem test_decode_row_C :
    decode [0xC0, 0x12] = .ok (.cpyImm 0x12, []) ∧
    decode [0xC1, 0x12] = .ok (.cmpIzx 0x12, []) ∧
    decode [0xC4, 0x12] = .ok (.cpyZp 0x12, []) ∧
    decode [0xC5, 0x12] = .ok (.cmpZp 0x12, []) ∧
    decode [0xC6, 0x12] = .ok (.decZp 0x12, []) ∧
    decode [0xC8] = .ok (.iny, []) ∧
    decode [0xC9, 0x12] = .ok (.cmpImm 0x12, []) ∧
    decode [0xCA] = .ok (.dex, []) ∧
    decode [0xCC, 0x34, 0x12] = .ok (.cpyAbs 0x1234, []) ∧
    decode [0xCD, 0x34, 0x12] = .ok (.cmpAbs 0x1234, []) ∧
    decode [0xCE, 0x34, 0x12] = .ok (.decAbs 0x1234, []) :=
  ⟨rfl, rfl, rfl, rfl, rfl, rfl, rfl, rfl, rfl, rfl, rfl⟩

/-- Row Dx of R105: 8 opcodes. -/
theorem test_decode_row_D :
    decode [0xD0, 0x12] = .ok (.bne 0x12, []) ∧
    decode [0xD1, 0x12] = .ok (.cmpIzy 0x12, []) ∧
    decode [0xD5, 0x12] = .ok (.cmpZpx 0x12, []) ∧
    decode [0xD6, 0x12] = .ok (.decZpx 0x12, []) ∧
    decode [0xD8] = .ok (.cld, []) ∧
    decode [0xD9, 0x34, 0x12] = .ok (.cmpAby 0x1234, []) ∧
    decode [0xDD, 0x34, 0x12] = .ok (.cmpAbx 0x1234, []) ∧
    decode [0xDE, 0x34, 0x12] = .ok (.decAbx 0x1234, []) :=
  ⟨rfl, rfl, rfl, rfl, rfl, rfl, rfl, rfl⟩

/-- Row Ex of R105: 11 opcodes. -/
theorem test_decode_row_E :
    decode [0xE0, 0x12] = .ok (.cpxImm 0x12, []) ∧
    decode [0xE1, 0x12] = .ok (.sbcIzx 0x12, []) ∧
    decode [0xE4, 0x12] = .ok (.cpxZp 0x12, []) ∧
    decode [0xE5, 0x12] = .ok (.sbcZp 0x12, []) ∧
    decode [0xE6, 0x12] = .ok (.incZp 0x12, []) ∧
    decode [0xE8] = .ok (.inx, []) ∧
    decode [0xE9, 0x12] = .ok (.sbcImm 0x12, []) ∧
    decode [0xEA] = .ok (.nop, []) ∧
    decode [0xEC, 0x34, 0x12] = .ok (.cpxAbs 0x1234, []) ∧
    decode [0xED, 0x34, 0x12] = .ok (.sbcAbs 0x1234, []) ∧
    decode [0xEE, 0x34, 0x12] = .ok (.incAbs 0x1234, []) :=
  ⟨rfl, rfl, rfl, rfl, rfl, rfl, rfl, rfl, rfl, rfl, rfl⟩

/-- Row Fx of R105: 8 opcodes. -/
theorem test_decode_row_F :
    decode [0xF0, 0x12] = .ok (.beq 0x12, []) ∧
    decode [0xF1, 0x12] = .ok (.sbcIzy 0x12, []) ∧
    decode [0xF5, 0x12] = .ok (.sbcZpx 0x12, []) ∧
    decode [0xF6, 0x12] = .ok (.incZpx 0x12, []) ∧
    decode [0xF8] = .ok (.sed, []) ∧
    decode [0xF9, 0x34, 0x12] = .ok (.sbcAby 0x1234, []) ∧
    decode [0xFD, 0x34, 0x12] = .ok (.sbcAbx 0x1234, []) ∧
    decode [0xFE, 0x34, 0x12] = .ok (.incAbx 0x1234, []) :=
  ⟨rfl, rfl, rfl, rfl, rfl, rfl, rfl, rfl⟩

/-- The host's view of the table: the opcode byte alone, operand bytes zero, and an operand's bits from the second byte
on, low byte first. -/
theorem test_decodeTableWord : decodeTableWord 8 0xA9 = some (.ldaImm 0) ∧ decodeTableWord 8 0x20 = some (.jsr 0) ∧
    decodeTableWord 24 0x12346C = some (.jmpInd 0x1234) ∧ decodeTableWord 8 0x02 = none := by decide

/-! ## Steps -/

/-- The machine of the vectors of spec/95_test_vectors.md: state after reset, the bytes at $0200 where PC is, the RAM
cells listed. -/
def launch (bytes : List Byte) (cells : Memory) : State :=
  { State.powerUp Cart.blank (bytes.zipIdx.foldl (fun m (b, k) => m.write (0x200 + k) b) cells) Env.idle with pc := 0x200 }

/-- What one step leaves in A, X, Y, SP, P and PC, and the count it returns. -/
def seen (s : State) : Option (List Byte × Word × Option Nat) :=
  match step s with
  | .next t => some ([t.a, t.x, t.y, t.sp, t.p], t.pc, t.out.returned)
  | .fault _ | .refused _ => none

/-- The transactions of one step, in order. -/
def traffic (s : State) : Option (List BusTxn) :=
  match step s with
  | .next t => some t.out.bus.reverse
  | .fault _ | .refused _ => none

/-- The RAM after one step. -/
def ramAfter (s : State) : Option Memory :=
  match step s with
  | .next t => some t.ram
  | .fault _ | .refused _ => none

theorem test_r140_ls3 : seen { launch [0xA9, 0x7F] [] with p := 0xA6 } =
    some ([0x7F, 0x00, 0x00, 0xFD, 0x24], 0x0202, some 2) := by decide

theorem test_r140_ls5 : seen { launch [0xB5, 0xF0] [(0x10, 0x99), (0x110, 0x11)] with x := 0x20 } =
    some ([0x99, 0x20, 0x00, 0xFD, 0xA4], 0x0202, some 4) := by decide

theorem test_r140_ls12 : seen (launch [0xA1, 0xFF] [(0x0, 0x03), (0x100, 0x07), (0x300, 0xCD)]) =
    some ([0xCD, 0x00, 0x00, 0xFD, 0xA4], 0x0202, some 6) := by decide

theorem test_r140_ls15 : seen { launch [0xB1, 0xFF] [(0x0, 0x03), (0xFF, 0x80), (0x100, 0x07), (0x382, 0x6C)] with y := 0x02 } =
    some ([0x6C, 0x00, 0x02, 0xFD, 0x24], 0x0202, some 5) := by decide

theorem test_r140_ls16 : seen { launch [0xBD, 0xFF, 0xFF] [(0x0, 0x3C)] with x := 0x01 } =
    some ([0x3C, 0x01, 0x00, 0xFD, 0x24], 0x0203, some 5) := by decide

theorem test_r140_ls8 : seen { launch [0xBD, 0xFF, 0x02] [(0x300, 0x77)] with x := 0x01 } =
    some ([0x77, 0x01, 0x00, 0xFD, 0x24], 0x0203, some 5) := by decide

theorem test_r141_ls26 : seen { launch [0xB6, 0xF0] [(0x10, 0x80)] with y := 0x20 } =
    some ([0x00, 0x80, 0x20, 0xFD, 0xA4], 0x0202, some 4) := by decide

theorem test_r142_ls31 : seen { launch [0xBC, 0xF0, 0x02] [(0x2FF, 0xFF)] with x := 0x0F } =
    some ([0x00, 0x0F, 0xFF, 0xFD, 0xA4], 0x0203, some 4) := by decide

theorem test_r143_ls39 : seen { launch [0x91, 0x10] [(0x10, 0xFF), (0x11, 0x02)] with a := 0xC7, y := 0x37 } =
    some ([0xC7, 0x00, 0x37, 0xFD, 0x24], 0x0202, some 6) := by decide

theorem test_r144_ls51 : seen { launch [0x96, 0x10] [] with x := 0x33, y := 0xF8 } =
    some ([0x00, 0x33, 0xF8, 0xFD, 0x24], 0x0202, some 4) := by decide

theorem test_r145_ls54 : seen { launch [0x94, 0x10] [] with x := 0x01, y := 0x44 } =
    some ([0x00, 0x01, 0x44, 0xFD, 0x24], 0x0202, some 4) := by decide

theorem test_r150_ts2 : seen { launch [0xAA] [] with a := 0x80 } =
    some ([0x80, 0x80, 0x00, 0xFD, 0xA4], 0x0201, some 2) := by decide

theorem test_r151_ts3 : seen { launch [0x8A] [] with a := 0x80, x := 0x7F, p := 0xA4 } =
    some ([0x7F, 0x7F, 0x00, 0xFD, 0x24], 0x0201, some 2) := by decide

theorem test_r152_ts4 : seen { launch [0xA8] [] with a := 0xFF } =
    some ([0xFF, 0x00, 0xFF, 0xFD, 0xA4], 0x0201, some 2) := by decide

theorem test_r153_ts5 : seen { launch [0x98] [] with a := 0x01 } =
    some ([0x00, 0x00, 0x00, 0xFD, 0x26], 0x0201, some 2) := by decide

theorem test_r154_ts7 : seen { launch [0xBA] [] with x := 0x01, sp := 0x00 } =
    some ([0x00, 0x00, 0x00, 0x00, 0x26], 0x0201, some 2) := by decide

theorem test_r155_ts8 : seen (launch [0x9A] []) =
    some ([0x00, 0x00, 0x00, 0x00, 0x24], 0x0201, some 2) := by decide

theorem test_r156_ts10 : seen { launch [0x48] [] with a := 0x42, sp := 0x00 } =
    some ([0x42, 0x00, 0x00, 0xFF, 0x24], 0x0201, some 3) := by decide

theorem test_r157_ts11 : seen { launch [0x68] [(0x100, 0x80)] with sp := 0xFF } =
    some ([0x80, 0x00, 0x00, 0x00, 0xA4], 0x0201, some 4) := by decide

theorem test_r158_ts14 : seen { launch [0x08] [] with p := 0xE5 } =
    some ([0x00, 0x00, 0x00, 0xFC, 0xE5], 0x0201, some 3) := by decide

theorem test_r159_ts15 : seen (launch [0x28] [(0x1FE, 0xFF)]) =
    some ([0x00, 0x00, 0x00, 0xFE, 0xEF], 0x0201, some 4) := by decide

theorem test_r170_lg3 : seen { launch [0x3D, 0xFF, 0x02] [(0x300, 0x3C)] with a := 0x5A, x := 0x01 } =
    some ([0x18, 0x01, 0x00, 0xFD, 0x24], 0x0203, some 5) := by decide

theorem test_r171_lg6 : seen { launch [0x01, 0x10] [(0x11, 0x03), (0x300, 0x0F)] with a := 0x30 } =
    some ([0x3F, 0x00, 0x00, 0xFD, 0x24], 0x0202, some 6) := by decide

theorem test_r172_lg8 : seen { launch [0x49, 0xFF] [] with a := 0x0F } =
    some ([0xF0, 0x00, 0x00, 0xFD, 0xA4], 0x0202, some 2) := by decide

theorem test_r173_lg10 : seen { launch [0x24, 0x10] [(0x10, 0xC0)] with a := 0x01 } =
    some ([0x01, 0x00, 0x00, 0xFD, 0xE6], 0x0202, some 3) := by decide

theorem test_r180_am3 : seen { launch [0x69, 0x00] [] with a := 0x7F, p := 0x25 } =
    some ([0x80, 0x00, 0x00, 0xFD, 0xE4], 0x0202, some 2) := by decide

theorem test_r180_am5 : seen { launch [0x69, 0x01] [] with a := 0x09, p := 0x2C } =
    some ([0x0A, 0x00, 0x00, 0xFD, 0x2C], 0x0202, some 2) := by decide

theorem test_r181_am13 : seen { launch [0xE9, 0x01] [] with p := 0x25 } =
    some ([0xFF, 0x00, 0x00, 0xFD, 0xA4], 0x0202, some 2) := by decide

theorem test_r181_am14 : seen { launch [0xE9, 0x01] [] with a := 0x80, p := 0x25 } =
    some ([0x7F, 0x00, 0x00, 0xFD, 0x65], 0x0202, some 2) := by decide

theorem test_r190_sh2 : seen { launch [0x0A] [] with a := 0x41, p := 0x25 } =
    some ([0x82, 0x00, 0x00, 0xFD, 0xA4], 0x0201, some 2) := by decide

theorem test_r191_sh3 : seen { launch [0x4A] [] with a := 0x01, p := 0xA4 } =
    some ([0x00, 0x00, 0x00, 0xFD, 0x27], 0x0201, some 2) := by decide

theorem test_r192_sh5 : seen { launch [0x2A] [] with a := 0x80, p := 0x25 } =
    some ([0x01, 0x00, 0x00, 0xFD, 0x25], 0x0201, some 2) := by decide

theorem test_r193_sh8 : seen { launch [0x6A] [] with p := 0x25 } =
    some ([0x80, 0x00, 0x00, 0xFD, 0xA4], 0x0201, some 2) := by decide

theorem test_r190_sh9 : seen (launch [0x06, 0x10] [(0x10, 0xFF)]) =
    some ([0x00, 0x00, 0x00, 0xFD, 0xA5], 0x0202, some 5) := by decide

theorem test_r193_sh10 : seen { launch [0x7E, 0xFF, 0x02] [(0x300, 0x02)] with x := 0x01, p := 0x25 } =
    some ([0x00, 0x01, 0x00, 0xFD, 0xA4], 0x0203, some 7) := by decide

theorem test_r200_ci3 : seen { launch [0xC9, 0x01] [] with a := 0x80 } =
    some ([0x80, 0x00, 0x00, 0xFD, 0x25], 0x0202, some 2) := by decide

theorem test_r200_ci6 : seen { launch [0xD1, 0x10] [(0x10, 0xFF), (0x11, 0x02), (0x300, 0x10)] with a := 0x10, y := 0x01 } =
    some ([0x10, 0x00, 0x01, 0xFD, 0x27], 0x0202, some 6) := by decide

theorem test_r201_ci8 : seen { launch [0xEC, 0x00, 0x03] [(0x300, 0x21)] with x := 0x20 } =
    some ([0x00, 0x20, 0x00, 0xFD, 0xA4], 0x0203, some 4) := by decide

theorem test_r202_ci9 : seen (launch [0xC4, 0x10] [(0x10, 0x80)]) =
    some ([0x00, 0x00, 0x00, 0xFD, 0xA4], 0x0202, some 3) := by decide

theorem test_r203_ci11 : seen { launch [0xE6, 0x10] [(0x10, 0xFF)] with p := 0x25 } =
    some ([0x00, 0x00, 0x00, 0xFD, 0x27], 0x0202, some 5) := by decide

theorem test_r204_ci15 : seen { launch [0xDE, 0xFF, 0x02] [(0x300, 0x01)] with x := 0x01 } =
    some ([0x00, 0x01, 0x00, 0xFD, 0x26], 0x0203, some 7) := by decide

theorem test_r205_ci17 : seen { launch [0xE8] [] with x := 0xFF } =
    some ([0x00, 0x00, 0x00, 0xFD, 0x26], 0x0201, some 2) := by decide

theorem test_r206_ci18 : seen { launch [0xC8] [] with y := 0x7F } =
    some ([0x00, 0x00, 0x80, 0xFD, 0xA4], 0x0201, some 2) := by decide

theorem test_r207_ci19 : seen (launch [0xCA] []) =
    some ([0x00, 0xFF, 0x00, 0xFD, 0xA4], 0x0201, some 2) := by decide

theorem test_r208_ci20 : seen { launch [0x88] [] with y := 0x01 } =
    some ([0x00, 0x00, 0x00, 0xFD, 0x26], 0x0201, some 2) := by decide

theorem test_r217_bj2 : seen { launch [0xD0, 0x02] [] with p := 0x26 } =
    some ([0x00, 0x00, 0x00, 0xFD, 0x26], 0x0202, some 2) := by decide

theorem test_r215_bj4 : seen { launch [] [(0x2F0, 0x90), (0x2F1, 0x7F)] with pc := 0x02F0 } =
    some ([0x00, 0x00, 0x00, 0xFD, 0x24], 0x0371, some 4) := by decide

theorem test_r216_bj5 : seen (launch [0xB0, 0x10] []) =
    some ([0x00, 0x00, 0x00, 0xFD, 0x24], 0x0202, some 2) := by decide

theorem test_r211_bj7 : seen { launch [] [(0x2FD, 0x10)] with pc := 0x02FD } =
    some ([0x00, 0x00, 0x00, 0xFD, 0x24], 0x02FF, some 3) := by decide

theorem test_r212_bj9 : seen { launch [] [(0x210, 0x30), (0x211, 0x80)] with p := 0xA4, pc := 0x0210 } =
    some ([0x00, 0x00, 0x00, 0xFD, 0xA4], 0x0192, some 4) := by decide

theorem test_r214_bj10 : seen { launch [0x70, 0x05] [] with p := 0x64 } =
    some ([0x00, 0x00, 0x00, 0xFD, 0x64], 0x0207, some 3) := by decide

theorem test_r213_bj11 : seen { launch [0x50, 0x05] [] with p := 0x64 } =
    some ([0x00, 0x00, 0x00, 0xFD, 0x64], 0x0202, some 2) := by decide

theorem test_r218_bj12 : seen { launch [] [(0x300, 0xF0), (0x301, 0xFD)] with p := 0x26, pc := 0x0300 } =
    some ([0x00, 0x00, 0x00, 0xFD, 0x26], 0x02FF, some 4) := by decide

theorem test_r219_bj13 : seen (launch [0x4C, 0x34, 0x12] []) =
    some ([0x00, 0x00, 0x00, 0xFD, 0x24], 0x1234, some 3) := by decide

theorem test_r220_bj14 : seen { launch [] [(0x200, 0x40), (0x240, 0x6C), (0x241, 0xFF), (0x242, 0x02), (0x300, 0x80)] with pc := 0x0240 } =
    some ([0x00, 0x00, 0x00, 0xFD, 0x24], 0x4000, some 5) := by decide

theorem test_r221_bj20 : seen { launch [0x20, 0x00, 0x03] [] with sp := 0x00 } =
    some ([0x00, 0x00, 0x00, 0xFE, 0x24], 0x0300, some 6) := by decide

theorem test_r222_bj19 : seen { launch [0x60] [(0x100, 0x33), (0x101, 0x12)] with sp := 0xFF } =
    some ([0x00, 0x00, 0x00, 0x01, 0x24], 0x1234, some 6) := by decide

theorem test_r230_sy2 : seen { launch [0x00] [] with sp := 0x01 } =
    some ([0x00, 0x00, 0x00, 0xFE, 0x24], 0x0000, some 7) := by decide

theorem test_r231_sy12 : seen (launch [0x40] [(0x100, 0x12), (0x1FE, 0xFF), (0x1FF, 0x34)]) =
    some ([0x00, 0x00, 0x00, 0x00, 0xEF], 0x1234, some 6) := by decide

theorem test_r232_sy15 : seen { launch [0x18] [] with p := 0x25 } =
    some ([0x00, 0x00, 0x00, 0xFD, 0x24], 0x0201, some 2) := by decide

theorem test_r233_sy16 : seen (launch [0x38] []) =
    some ([0x00, 0x00, 0x00, 0xFD, 0x25], 0x0201, some 2) := by decide

theorem test_r234_sy17 : seen (launch [0x58] []) =
    some ([0x00, 0x00, 0x00, 0xFD, 0x20], 0x0201, some 2) := by decide

theorem test_r235_sy18 : seen { launch [0x78] [] with p := 0x20 } =
    some ([0x00, 0x00, 0x00, 0xFD, 0x24], 0x0201, some 2) := by decide

theorem test_r236_sy19 : seen { launch [0xB8] [] with p := 0x64 } =
    some ([0x00, 0x00, 0x00, 0xFD, 0x24], 0x0201, some 2) := by decide

theorem test_r237_sy20 : seen { launch [0xD8] [] with p := 0x2C } =
    some ([0x00, 0x00, 0x00, 0xFD, 0x24], 0x0201, some 2) := by decide

theorem test_r238_sy21 : seen (launch [0xF8] []) =
    some ([0x00, 0x00, 0x00, 0xFD, 0x2C], 0x0201, some 2) := by decide

theorem test_r239_sy22 : seen { launch [0xEA] [] with a := 0x12, x := 0x34, y := 0x56, p := 0xE5 } =
    some ([0x12, 0x34, 0x56, 0xFD, 0xE5], 0x0201, some 2) := by decide

/-! ### Traffic, memory, interrupts, faults -/

/-- Vector SH9: ASL of memory reads once and writes once. -/
theorem test_rmw_sh9_traffic : traffic (launch [0x06, 0x10] [(0x10, 0xFF)]) =
    some [.read 0x200 0x06, .read 0x201 0x10, .read 0x10 0xFF, .write 0x10 0xFE] := by decide

/-- Vector LS35: an indexed store that crosses a page makes no dummy read. -/
theorem test_sta_ls35_traffic : traffic { launch [0x9D, 0xFF, 0x02] [] with a := 0xAB, x := 1 } =
    some [.read 0x200 0x9D, .read 0x201 0xFF, .read 0x202 0x02, .write 0x300 0xAB] := by decide

/-- Vector BJ16: JSR pushes 0202, the high byte first. -/
theorem test_jsr_bj16_traffic : traffic (launch [0x20, 0x00, 0x03] []) =
    some [.read 0x200 0x20, .read 0x201 0x00, .read 0x202 0x03, .write 0x1FD 0x02, .write 0x1FC 0x02] := by decide

/-- Vectors LS33 and LS34: a zero-page index wraps, and 0800 is RAM cell 0000. -/
theorem test_sta_ls33_ls34_ram :
    ramAfter { launch [0x95, 0xFF] [] with a := 0xAB, x := 2 } = some [(0x001, 0xAB), (0x200, 0x95), (0x201, 0xFF)] ∧
    ramAfter { launch [0x8D, 0x00, 0x08] [] with a := 0x34 } =
      some [(0x000, 0x34), (0x200, 0x8D), (0x202, 0x08)] := by decide

/-- Vector TS13: PHP pushes P with bits 5 and 4 set. -/
theorem test_php_ts13_traffic : traffic (launch [0x08] []) = some [.read 0x200 0x08, .write 0x1FD 0x34] := by decide

/-- The port calls of one step, in order, after the boundary's `PollNmi()`. -/
def calls (s : State) : Option (List PortCall) :=
  match step s with
  | .next t => some t.out.ports.reverse.tail
  | .fault _ | .refused _ => none

/-- Vectors LS41, LS45 and LS18: PPUDATA through an indexed store, the strobe to both controllers, a PPU register read
through its mirror. -/
theorem test_ports_ls41_ls45_ls18 :
    calls { launch [0x9D, 0x00, 0x20] [] with a := 0x3F, x := 7 } = some [.ppuWrite 7 0x3F] ∧
    calls { launch [0x8D, 0x16, 0x40] [] with a := 3 } = some [.controller1Write true, .controller2Write true] ∧
    calls { launch [0xAD, 0xFA, 0x3F] [] with env := { Env.idle with portAnswers := [0] } } = some [.ppuRead 2 0] := by
  decide

/-- The cartridge of section 2.8: vectors A000, 8000 and 9000. -/
def vectorCart : Cart := { Cart.blank with prgRom := [(0x3FFB, 0xA0), (0x3FFD, 0x80), (0x3FFF, 0x90)] }

/-- A machine of section 2.8 with the NMI line's levels at the coming polls. -/
def service (bytes : List Byte) (p : Byte) (plan : List Bool) (irq : Bool) : State :=
  { launch bytes [] with cart := vectorCart, p := p, irqLine := irq, env := { Env.idle with nmiPlan := plan } }

/-- Vectors SY1 and SY3: BRK through the IRQ vector, and hijacked by NMI after the status push. -/
theorem test_brk_sy1_sy3 :
    traffic (service [0x00, 0xEA] 0xE1 [] false) = some [.read 0x200 0x00, .write 0x1FD 0x02, .write 0x1FC 0x02,
      .write 0x1FB 0xF1, .read 0xFFFE 0x00, .read 0xFFFF 0x90] ∧
    seen (service [0x00] 0x24 [false, true] false) = some ([0, 0, 0, 0xFA, 0x24], 0xA000, some 7) := by decide

/-- Vectors SY4 and SY9: NMI entry fetches no opcode, pushes B = 0, is not masked by I and wins over IRQ. -/
theorem test_nmi_sy4_sy9 :
    traffic (service [0xEA] 0x21 [true] false) = some [.write 0x1FD 0x02, .write 0x1FC 0x00, .write 0x1FB 0x21,
      .read 0xFFFA 0x00, .read 0xFFFB 0xA0] ∧
    seen (service [0xEA] 0x20 [true] true) = some ([0, 0, 0, 0xFA, 0x24], 0xA000, some 7) := by decide

/-- Vectors SY6, SY7 and SY8: IRQ taken, masked, hijacked. -/
theorem test_irq_sy6_sy7_sy8 :
    seen (service [0xEA] 0x22 [] true) = some ([0, 0, 0, 0xFA, 0x26], 0x9000, some 7) ∧
    seen (service [0xEA] 0x24 [] true) = some ([0, 0, 0, 0xFD, 0x24], 0x0201, some 2) ∧
    seen (service [0xEA] 0x20 [false, true] true) = some ([0, 0, 0, 0xFA, 0x24], 0xA000, some 7) := by decide

/-- Vector SY10: a line already high is no edge. -/
theorem test_nmi_sy10 : seen { service [0xEA] 0x24 [true] false with nmiPrev := true } =
    some ([0, 0, 0, 0xFD, 0x24], 0x0201, some 2) := by decide

/-- Vector SY23: an undocumented byte faults, and the machine then stays halted. -/
theorem test_fault_sy23 :
    (match step (launch [0x02] []) with | .fault f => some f | .next _ | .refused _ => none) =
      some (.badOpcode 0x02 0x200) ∧
    (match step (afterStep (launch [0x02] [])) with | .fault f => some f | .next _ | .refused _ => none) =
      some .halted := by decide

/-- Vector DM2: the OAMDMA of an even cycle count, 4 + 513 cycles, 256 port calls. -/
theorem test_dma_dm2 :
    let s : State := { launch [0x8D, 0x14, 0x40] [(0x300, 0xAA)] with a := 3, cycles := 8 }
    (seen s).map (·.2.2) = some (some 517) ∧ (calls s).map List.length = some 256 ∧
      (calls s).map (List.take 2) = some [.ppuWrite 4 0xAA, .ppuWrite 4 0x00] := by decide +kernel

/-! ### Reset, images, the cartridge -/

/-- Vector RS1. -/
theorem test_reset_rs1 :
    let s := State.powerUp vectorCart [] Env.idle
    ([s.a, s.x, s.y, s.sp, s.p], s.pc, s.cycles) = ([0, 0, 0, 0xFD, 0x24], 0x8000, 7) ∧
      s.out.bus.reverse = [.read 0xFFFC 0x00, .read 0xFFFD 0x80] := by decide

/-- A header with zeros from byte 8 on. -/
def header (prg chr f6 f7 : Byte) : List Byte := [0x4E, 0x45, 0x53, 0x1A, prg, chr, f6, f7, 0, 0, 0, 0, 0, 0, 0, 0]

/-- The reason an image is refused. -/
def refusal (buf : List Byte) : Option ImageRefusal :=
  match loadImage buf [] with
  | .ok _ => none
  | .error e => some e

/-- Vectors HD1 to HD9, those whose data does not matter. -/
theorem test_image_refusals :
    refusal [0x4E, 0x45, 0x53] = some .invalidHeader ∧
    refusal ([0x4E, 0x45, 0x53, 0x00] ++ List.replicate 12 0) = some .invalidHeader ∧
    refusal [0x4E, 0x45, 0x53, 0x1A, 1, 0, 0, 0, 0, 0] = some .truncated ∧
    refusal (header 1 1 0x20 0) = some .unsupportedMapper ∧ refusal (header 0 1 0x20 0) = some .unsupportedMapper ∧
    refusal (header 1 0 0x10 0x10) = some .unsupportedMapper ∧ refusal (header 0 0 0 0) = some .invalidHeader ∧
    refusal (header 2 1 0 0) = some .truncated ∧ refusal (header 1 0 4 0) = some .truncated := by decide

/-- Vectors HD11 to HD15: the configuration of a header. -/
theorem test_image_config :
    imageConfig (header 2 1 1 0) = ⟨2, 1, false, .vertical⟩ ∧ imageConfig (header 1 1 9 0) = ⟨1, 1, false, .fourScreen⟩ ∧
    imageConfig (header 1 0 2 0) = ⟨1, 0, true, .horizontal⟩ ∧ imageConfig (header 8 4 0x10 0) = ⟨8, 4, true, .horizontal⟩ ∧
    imageConfig (header 1 0 0x10 8) = ⟨1, 0, true, .horizontal⟩ ∧ imagePrgStart (header 1 0 4 0) = 528 := by decide

/-- An MMC1 cartridge at power-on. -/
def mmc1Cart (prg chr : Nat) (rom : Memory) : Cart :=
  Cart.powerUp ⟨prg, chr, true, .horizontal⟩ (.mmc1 Mmc1.powerOn) rom [] []

/-- CPU writes in order. -/
def writes (c : Cart) (ws : List (Word × Byte)) : Cart := ws.foldl (fun c w => c.cpuWrite w.1 w.2) c

/-- Vectors M3, M4, M8 and M9. -/
theorem test_mmc1_serial :
    (writes (mmc1Cart 8 4 []) [(0x8000, 0), (0xFFFF, 1), (0xC123, 1), (0x9000, 0), (0xA000, 1)]).board =
      .mmc1 ⟨0, 0, 0x0C, 0x16, 0, 0⟩ ∧
    (writes (mmc1Cart 8 4 []) [(0xE000, 1), (0xE000, 1), (0xE000, 1), (0xE000, 1)]).board =
      .mmc1 ⟨0x0F, 4, 0x0C, 0, 0, 0⟩ ∧
    (writes (mmc1Cart 8 4 []) [(0x9FFF, 1), (0x9FFF, 1), (0x9FFF, 0), (0x9FFF, 0), (0x9FFF, 1)]).board =
      .mmc1 ⟨0, 0, 0x13, 0, 0, 0⟩ ∧
    (let c := writes (mmc1Cart 8 4 []) [(0x8000, 2), (0x8000, 2), (0x8000, 2), (0x8000, 2), (0x8000, 2), (0x8000, 0x80)]
     (c.board, c.mirroring)) = (.mmc1 ⟨0, 0, 0x0C, 0, 0, 0⟩, .oneScreenLow) := by decide

/-- The MMC1 registers set. -/
def banked (prg : Nat) (control prgBank : BitVec 5) : Cart :=
  { mmc1Cart prg 4 ((List.range prg).map fun k => (k * 0x4000, BitVec.ofNat 8 (0xB0 + k))) with
    board := .mmc1 ⟨0, 0, control, 0, 0, prgBank⟩ }

/-- Vectors MP1, MP3, MP4, MP6 and MP12: the bank at $8000 and at $C000. -/
theorem test_mmc1_prg_banks :
    [(banked 8 0x00 0x05), (banked 8 0x08 0x05), (banked 8 0x0C 0x05), (banked 8 0x00 0x1D), (banked 2 0x08 0x07)].map
      (fun c => (c.cpuRead 0x8000, c.cpuRead 0xC000)) =
    [(0xB4, 0xB5), (0xB0, 0xB5), (0xB5, 0xB7), (0xB4, 0xB5), (0xB0, 0xB1)] := by decide

/-- Vectors MC1, MC2 and MC6: CHR indexes at 0000, 0FFF, 1000 and 1FFF. -/
theorem test_mmc1_chr_banks :
    let index := fun (chr : Nat) (control b0 b1 : BitVec 5) =>
      [0x0000, 0x0FFF, 0x1000, 0x1FFF].map
        { mmc1Cart 8 chr [] with board := .mmc1 ⟨0, 0, control, b0, b1, 0⟩ }.chrIndex
    index 4 0x00 5 2 = [0x4000, 0x4FFF, 0x5000, 0x5FFF] ∧ index 4 0x10 5 2 = [0x5000, 0x5FFF, 0x2000, 0x2FFF] ∧
      index 0 0x10 3 2 = [0x1000, 0x1FFF, 0x0000, 0x0FFF] := by decide

/-- Group BU: the targets at both ends of every range of the read and write decoders. -/
theorem test_decoder_boundaries :
    [0x0000, 0x07FF, 0x0800, 0x1FFF, 0x2000, 0x3FFF, 0x4000, 0x4013, 0x4014, 0x4015, 0x4016, 0x4017, 0x4018, 0x401F,
      0x4020, 0x5FFF, 0x6000, 0xFFFF].map readTarget =
      [.ram 0, .ram 0x7FF, .ram 0, .ram 0x7FF, .ppu 0, .ppu 7, .openBus, .openBus, .openBus, .apuStatus, .controller1,
        .controller2, .openBus, .openBus, .cartridge, .cartridge, .cartridge, .cartridge] ∧
    [0x0000, 0x1FFF, 0x2000, 0x3FFF, 0x4000, 0x4013, 0x4014, 0x4015, 0x4016, 0x4017, 0x4018, 0x401F, 0x4020, 0x5FFF,
      0x6000, 0xFFFF].map writeTarget =
      [.ram 0, .ram 0x7FF, .ppu 0, .ppu 7, .apu, .apu, .oamDma, .apu, .controllers, .apu, .nothing, .nothing, .cartridge,
        .cartridge, .cartridge, .cartridge] := by decide

/-- Groups CA and RS: NROM mirrors one bank, drops writes, and an absent PRG-RAM is open bus. -/
theorem test_nrom :
    vectorCart.cpuRead 0xFFFD = 0x80 ∧ vectorCart.cpuRead 0xBFFD = 0x80 ∧
    (vectorCart.cpuWrite 0x8000 0xFF).cpuRead 0x8000 = 0x00 ∧ (vectorCart.cpuWrite 0x6000 0x5A).cpuRead 0x6000 = 0x00 := by
  decide

/-! ### The host's placed word and the trace line -/

/-- The first step after reset runs the word placed: INX, and a JMP with its operand. -/
theorem test_withFetchWord :
    seen (State.reset.withFetchWord 8 0xE8) = some ([0, 1, 0, 0xFD, 0x24], 0x0001, some 2) ∧
    seen (State.reset.withFetchWord 24 0x12344C) = some ([0, 0, 0, 0xFD, 0x24], 0x1234, some 3) := by decide

/-- The source's example of a trace line (R270), read on a machine that holds the instruction at $8000. -/
theorem test_trace_line :
    traceLine ({ State.powerUp vectorCart [] Env.idle with pc := 0x8000 }.withFetchWord 16 0x00A9) =
      some "8000 A9 00 LDA A:00 X:00 Y:00 P:24 SP:FD CYC:7".toList := by decide

/-! ## Witnesses: concrete states and operands that meet the hypotheses of each statement -/

/-- A state at a boundary that runs `LDA #$10`. -/
def ldaState : State := launch [0xA9, 0x10] []

theorem witness_ImageRefusedInOrder :
    [0x4E, 0x45, 0x53].take 4 ≠ ([0x4E, 0x45, 0x53, 0x1A] : List Byte) ∧
    (let buf : List Byte := (header 1 0 0 0).take 15; buf.take 4 = [0x4E, 0x45, 0x53, 0x1A] ∧ buf.length < 16) ∧
    (let buf := header 1 1 0x20 0; buf.length = 16 ∧ imageMapper buf ≠ 0 ∧ imageMapper buf ≠ 1) ∧
    (let buf := header 0 0 0x10 0; buf.length = 16 ∧ imageMapper buf = 1 ∧ imageByte buf 4 = 0) ∧
    (let buf := header 1 0 0 0; buf.length = 16 ∧ imageMapper buf = 0 ∧ imageByte buf 4 ≠ 0 ∧
      buf.length < 16 + 0 + (imageByte buf 4).toNat * 16384 + (imageByte buf 5).toNat * 8192) := by decide

/-- The shortest image with a trainer and data to its last byte. -/
def fullImage (f6 : Byte) (n : Nat) : List Byte := header 1 0 f6 0 ++ List.replicate n 0

theorem fullImage_loads (f6 : Byte) (n : Nat) (ram : Memory) (hm : imageMapper (header 1 0 f6 0) = 0)
    (hn : imageLength (header 1 0 f6 0) ≤ 16 + n) : 
    ∃ c, loadImage (fullImage f6 n) ram = .ok c ∧ c.config = imageConfig (header 1 0 f6 0) := by
  have hl : (fullImage f6 n).length = 16 + n := by simp [fullImage, header]; omega
  have hi : imageLength (fullImage f6 n) = imageLength (header 1 0 f6 0) := rfl
  have hb : imageBoard (fullImage f6 n) = some .nrom := if_pos hm
  unfold loadImage
  rw [if_neg (by simp [fullImage, header]), if_neg (by omega), hb]
  dsimp only
  rw [if_neg (by simp [fullImage, header, imageConfig, imageByte]), if_neg (by omega)]
  exact ⟨_, rfl, rfl⟩

theorem witness_ImageLoadsItsBytes :
    (∃ c, loadImage (fullImage 0 16384) [] = .ok c) ∧ (∃ c, loadImage (fullImage 4 (512 + 16384)) [] = .ok c) := by
  obtain ⟨c, hc, _⟩ := fullImage_loads 0 16384 [] (by decide) (by decide)
  obtain ⟨d, hd, _⟩ := fullImage_loads 4 (512 + 16384) [] (by decide) (by decide)
  exact ⟨⟨c, hc⟩, ⟨d, hd⟩⟩

/-- An image with PRG-RAM and a byte in it. -/
theorem witness_ResetSetsTheCpuAndKeepsTheRest :
    ∃ s, powerUpImage (fullImage 2 16384) [] [(0, 0x5A)] Env.idle = .ok s ∧ s.cart.config.hasPrgRam = true := by
  obtain ⟨c, hc, hr⟩ := fullImage_loads 2 16384 [(0, 0x5A)] (by decide) (by decide)
  refine ⟨State.powerUp c [] Env.idle, by unfold powerUpImage; rw [hc], ?_⟩
  exact (congrArg CartConfig.hasPrgRam hr).trans (by decide)

theorem witness_DecodedBytesAreTheEncoding :
    decode [0xA9, 0x10, 0xEA] = .ok (.ldaImm 0x10, [0xEA]) ∧ decode [0xFE, 0xFF, 0xFF] = .ok (.incAbx 0xFFFF, []) :=
  ⟨rfl, rfl⟩

theorem witness_OpcodeBytesDecodeAsTabled :
    (0x03 : Byte) &&& 0x0F = 3 ∧ (0xF7 : Byte) &&& 0x0F = 7 ∧ (0x0B : Byte) &&& 0x0F = 0xB ∧ (0xFF : Byte) &&& 0x0F = 0xF ∧
    ((0x02 : Byte) &&& 0x0F = 2 ∧ (0x02 : Byte) ≠ 0xA2) ∧ (0xFA : Byte) ∈ ([0x04, 0xFA] : List Byte) ∧
    ¬ ((0xA2 : Byte) &&& 0x0F = 2 ∧ (0xA2 : Byte) ≠ 0xA2) ∧ (0xFE : Byte) &&& 0x0F = 0xE := by decide

theorem witness_StepRunsTheDecodedInstruction :
    ∃ u i rest, boundary ldaState = .run u ∧ decode (readBytes 3 u).1 = .ok (i, rest) := ⟨_, _, _, rfl, rfl⟩

theorem witness_InstructionRunsUnlessInterrupted :
    (ldaState.halted = false ∧ nmiSeen ldaState = false ∧ irqLevel ldaState = false) ∧
    (let s := service [0xEA] 0x24 [] true
     s.halted = false ∧ nmiSeen s = false ∧ irqLevel s = true ∧ flagI s.p = true) := by decide

theorem witness_UndocumentedOpcodeFaults :
    ∃ u, boundary (launch [0x02] []) = .run u ∧ (formatOf (busRead u.pc u).1).isNone = true := ⟨_, rfl, rfl⟩

theorem witness_HaltedMachineTakesNoStep : (afterStep (launch [0x02] [])).halted = true := by decide

theorem witness_PollNmiLatchesRisingEdge :
    (service [0xEA] 0x24 [true] false).env.nmiPlan = [true] ∧ ldaState.env.nmiPlan = [] := by decide

theorem witness_NmiEntersFirst :
    let s := service [0xEA] 0x20 [true] true
    s.halted = false ∧ nmiSeen s = true ∧ s.dmaPage = none := by decide

theorem witness_IrqEntersWhenUnmasked :
    let s := service [0xEA] 0x20 [false, true] true
    s.halted = false ∧ nmiSeen s = false ∧ irqLevel s = true ∧ flagI s.p = false ∧ s.dmaPage = none := by decide

theorem witness_BrkEnters : nmiSeen (service [] 0x24 [true] false) = true ∧ nmiSeen (service [] 0x24 [] false) = false ∧
    (service [] 0x24 [true] false).dmaPage = none := by decide

theorem witness_RtiPullsStatusThenPc : { launch [] [(0x1FE, 0xFF)] with sp := 0xFD }.dmaPage = none := by decide

theorem witness_ReturnUndoesEntry : { ldaState with sp := 0x01 }.p &&& 0x30 = 0x20 := by decide

/-- A step whose traffic is known is a next state with those transactions. -/
theorem next_of_traffic {s : State} {b : List BusTxn} (h : traffic s = some b) :
    ∃ t, step s = .next t ∧ t.out.bus.reverse = b := by
  unfold traffic at h
  cases hs : step s with
  | next t => rw [hs] at h; exact ⟨t, rfl, by simpa using h⟩
  | fault f => rw [hs] at h; cases h
  | refused r => rw [hs] at h; cases h

theorem ldaState_traffic : traffic ldaState = some [.read 0x200 0xA9, .read 0x201 0x10] := by decide

/-- The step of `ldaState` is a next state. -/
theorem ldaState_steps : ∃ t, step ldaState = .next t := by
  obtain ⟨t, h, _⟩ := next_of_traffic ldaState_traffic
  exact ⟨t, h⟩

theorem witness_NoNmiStaysLatchedAfterAStep : ∃ t, step (service [0xEA] 0x21 [true] false) = .next t := by
  obtain ⟨t, h, _⟩ := next_of_traffic test_nmi_sy4_sy9.1
  exact ⟨t, h⟩

theorem witness_StepReturnsItsCycleCount : ldaState.dmaPage = none ∧ ∃ t, step ldaState = .next t :=
  ⟨rfl, ldaState_steps⟩

/-- Whether the boundary runs an instruction and the fetch finds one. -/
def fetches (s : State) : Bool :=
  match boundary s with
  | .run u => (match fetchInstr u with | .instr _ _ => true | .bad _ _ _ => false)
  | .entry _ => false
  | .halted => false

theorem instr_of_fetches {s : State} (h : fetches s = true) :
    ∃ u i v, boundary s = .run u ∧ fetchInstr u = .instr i v := by
  unfold fetches at h
  cases hb : boundary s with
  | run u =>
    rw [hb] at h
    cases hf : fetchInstr u with
    | instr i v => exact ⟨u, i, v, rfl, hf⟩
    | bad op pc v => simp only [hf] at h; cases h
  | entry u => rw [hb] at h; cases h
  | halted => rw [hb] at h; cases h

/-- A step that stores to $4014, one that stores elsewhere, and one that stores nothing. -/
theorem witness_ExactBusTransactions :
    ∀ s ∈ [{ launch [0x8D, 0x14, 0x40] [] with a := 3 }, launch [0x8D, 0x00, 0x03] [], ldaState],
      s.dmaPage = none ∧ ∃ u i v, boundary s = .run u ∧ fetchInstr u = .instr i v := by
  have h : ∀ s ∈ [{ launch [0x8D, 0x14, 0x40] [] with a := 3 }, launch [0x8D, 0x00, 0x03] [], ldaState],
      s.dmaPage = none ∧ fetches s = true := by decide
  exact fun s hs => ⟨(h s hs).1, instr_of_fetches (h s hs).2⟩

/-- Operands that have an address, and one form of each side of the page penalty. -/
theorem witness_AddressingModesGiveTheirNumbers :
    (∀ o ∈ [Operand.zeroPage 0xFF, .zeroPageX 0xFF, .absoluteY 0xFFFF, .indirect 0x02FF, .indirectX 0xFF, .indirectY 0xFF],
      ∀ v, o ≠ .immediate v) ∧
    ((Instr.cmpIzy 0).row.mode ∈ [Mode.absoluteX, .absoluteY, .indirectY] ∧
      (Instr.cmpIzy 0).row.mnemonic ∈ [Mnemonic.lda, .ldx, .ldy, .and, .ora, .eor, .adc, .sbc, .cmp]) ∧
    ¬ ((Instr.staAbx 0).row.mode ∈ [Mode.absoluteX, .absoluteY, .indirectY] ∧
      (Instr.staAbx 0).row.mnemonic ∈ [Mnemonic.lda, .ldx, .ldy, .and, .ora, .eor, .adc, .sbc, .cmp]) := by
  refine ⟨by simp, by decide, by decide⟩

theorem witness_LoadsMoveTheOperand : ldaState.dmaPage = none ∧
    (∃ o, Operand.of (.ldaIzy 0xFF) = some o) ∧ (Instr.ldaIzy 0xFF).row.mnemonic = .lda ∧
    (∃ o, Operand.of (.ldxImm 0) = some o) ∧ (Instr.ldxImm 0).row.mnemonic = .ldx ∧
    (∃ o, Operand.of (.ldyAbx 0xFFFF) = some o) ∧ (Instr.ldyAbx 0xFFFF).row.mnemonic = .ldy :=
  ⟨rfl, ⟨_, rfl⟩, rfl, ⟨_, rfl⟩, rfl, ⟨_, rfl⟩, rfl⟩

theorem witness_StoresWriteTheirRegister : ldaState.dmaPage = none ∧
    (∃ o, Operand.of (.staAbs 0x4014) = some o ∧ (effective o ldaState).1.addr = 0x4014) ∧
    (Instr.staAbs 0x4014).row.mnemonic = .sta ∧
    (∃ o, Operand.of (.stxZpy 0xFF) = some o ∧ (effective o ldaState).1.addr ≠ 0x4014) ∧
    (Instr.stxZpy 0xFF).row.mnemonic = .stx ∧ (∃ o, Operand.of (.styZp 0) = some o) ∧
    (Instr.styZp 0).row.mnemonic = .sty :=
  ⟨rfl, ⟨_, rfl, rfl⟩, rfl, ⟨_, rfl, by decide⟩, rfl, ⟨_, rfl⟩, rfl⟩

theorem witness_TransfersMoveSourceToDestination : { ldaState with a := 0x80, sp := 0 }.dmaPage = none := rfl

theorem witness_PushesStoreAtTheStack : { ldaState with sp := 0 }.dmaPage = none ∧
    (Instr.pha, ldaState.a) ∈ [(Instr.pha, ldaState.a), (Instr.php, ldaState.p ||| 0x30)] ∧
    (Instr.php, ldaState.p ||| 0x30) ∈ [(Instr.pha, ldaState.a), (Instr.php, ldaState.p ||| 0x30)] :=
  ⟨rfl, by simp, by simp⟩

theorem witness_PullsReadTheStack : { ldaState with sp := 0xFF }.dmaPage = none := rfl

theorem witness_PushPullRoundTrips : ldaState.dmaPage = none ∧ ldaState.p &&& 0x30 = 0x20 := by decide

theorem witness_LogicCombinesIntoA : ldaState.dmaPage = none ∧
    (∃ o, Operand.of (.andIzx 0xFF) = some o) ∧ (Instr.andIzx 0xFF).row.mnemonic = .and ∧
    (∃ o, Operand.of (.oraAby 0xFFFF) = some o) ∧ (Instr.oraAby 0xFFFF).row.mnemonic = .ora ∧
    (∃ o, Operand.of (.eorImm 0) = some o) ∧ (Instr.eorImm 0).row.mnemonic = .eor :=
  ⟨rfl, ⟨_, rfl⟩, rfl, ⟨_, rfl⟩, rfl, ⟨_, rfl⟩, rfl⟩

theorem witness_BitCopiesOperandBits : ldaState.dmaPage = none ∧ (∃ o, Operand.of (.bitAbs 0xFFFF) = some o) ∧
    (Instr.bitAbs 0xFFFF).row.mnemonic = .bit := ⟨rfl, ⟨_, rfl⟩, rfl⟩

theorem witness_AdcAddsWithCarry : ldaState.dmaPage = none ∧ (∃ o, Operand.of (.adcZpx 0xFF) = some o) ∧
    (Instr.adcZpx 0xFF).row.mnemonic = .adc := ⟨rfl, ⟨_, rfl⟩, rfl⟩

theorem witness_SbcSubtractsWithBorrow : ldaState.dmaPage = none ∧ (∃ o, Operand.of (.sbcIzy 0) = some o) ∧
    (Instr.sbcIzy 0).row.mnemonic = .sbc := ⟨rfl, ⟨_, rfl⟩, rfl⟩

theorem witness_ArithmeticIgnoresDecimal : (Instr.adcImm 0x01).row.mnemonic = .adc ∧
    (Instr.sbcAbs 0xFFFF).row.mnemonic = .sbc := ⟨rfl, rfl⟩

theorem witness_ComparesSetFlagsOnly : ldaState.dmaPage = none ∧
    (∃ o, Operand.of (.cmpIzy 0xFF) = some o) ∧ (Instr.cmpIzy 0xFF).row.mnemonic = .cmp ∧
    (∃ o, Operand.of (.cpxImm 0) = some o) ∧ (Instr.cpxImm 0).row.mnemonic = .cpx ∧
    (∃ o, Operand.of (.cpyAbs 0xFFFF) = some o) ∧ (Instr.cpyAbs 0xFFFF).row.mnemonic = .cpy :=
  ⟨rfl, ⟨_, rfl⟩, rfl, ⟨_, rfl⟩, rfl, ⟨_, rfl⟩, rfl⟩

theorem witness_AccumulatorShifts :
    let s : State := { ldaState with a := 0x80, p := 0x25 }
    s.dmaPage = none ∧ (Instr.rolAcc, BitVec.ofNat 8 (2 * s.a.toNat + (flagC s.p).toNat), s.a.getLsbD 7) =
      (Instr.rolAcc, 0x01, true) := by decide

theorem witness_ReadModifyWriteUpdatesMemory : ldaState.dmaPage = none ∧
    (∃ o, Operand.of (.incAbs 0x4014) = some o ∧ (effective o ldaState).1.addr = 0x4014) ∧
    (Instr.incAbs 0x4014).row.mnemonic = .inc ∧ (∃ o, Operand.of (.rorAbx 0xFFFF) = some o) ∧
    (Instr.rorAbx 0xFFFF).row.mnemonic = .ror ∧ (∃ o, Operand.of (.aslZp 0) = some o) ∧
    (Instr.aslZp 0).row.mnemonic = .asl ∧ (Instr.lsrZpx 0).row.mnemonic = .lsr ∧ (Instr.rolZp 0).row.mnemonic = .rol ∧
    (Instr.decZpx 0xFF).row.mnemonic = .dec :=
  ⟨rfl, ⟨_, rfl, rfl⟩, rfl, ⟨_, rfl⟩, rfl, ⟨_, rfl⟩, rfl, rfl, rfl, rfl⟩

theorem witness_IndexRegistersCount :
    let s : State := { ldaState with x := 0xFF, y := 0x00 }
    s.dmaPage = none ∧ (s.x + 1, s.y - 1) = (0x00, 0xFF) := by decide

theorem witness_BranchesTestTheirFlag : ldaState.dmaPage = none ∧
    (Instr.bne 0x80, !flagZ ldaState.p) = (Instr.bne 0x80, true) ∧
    (Instr.beq 0x7F, flagZ ldaState.p) = (Instr.beq 0x7F, false) := by decide

theorem witness_JumpsSetPc : ldaState.dmaPage = none ∧ loByte 0x02FF = 0xFF ∧ loByte 0x0200 ≠ 0xFF := by decide

theorem witness_JsrPushesReturnAddress : { ldaState with sp := 0, pc := 0x0000 }.dmaPage = none := rfl

theorem witness_RtsReturnsPastTheCall : { ldaState with sp := 0xFF }.dmaPage = none := rfl

theorem witness_FlagInstructionsWriteOneFlag : ldaState.dmaPage = none ∧
    (Instr.sed, (0x08 : Byte), (0x08 : Byte)) ∈ [(Instr.cld, (0x08 : Byte), (0x00 : Byte)), (Instr.sed, 0x08, 0x08)] :=
  ⟨rfl, by simp⟩

theorem witness_InterruptDisableActsAtNextBoundary :
    (let s := service [0x58, 0xEA] 0x24 [] true
     s.dmaPage = none ∧ s.halted = false ∧ s.nmiPending = false ∧
       (match exec .cli s with | .next t => nmiSeen t == false && irqLevel t | .fault _ | .refused _ => false) = true) ∧
    (let s := service [0x78] 0x20 [] true
     (match exec .sei s with | .next t => nmiSeen t == false | .fault _ | .refused _ => false) = true) := by decide

/-- One address at each end of each range of the read decoder. -/
theorem witness_ReadsDecodeToOneTarget :
    (0x1FFF : Word).toNat < 0x2000 ∧ 0x2000 ≤ (0x2000 : Word).toNat ∧ (0x3FFF : Word).toNat < 0x4000 ∧
    0x4000 ≤ (0x4000 : Word).toNat ∧ (0x4014 : Word).toNat ≤ 0x4014 ∧ (0x4015 : Word).toNat = 0x4015 ∧
    (0x4016 : Word).toNat = 0x4016 ∧ (0x4017 : Word).toNat = 0x4017 ∧ 0x4018 ≤ (0x4018 : Word).toNat ∧
    (0x401F : Word).toNat ≤ 0x401F ∧ 0x4020 ≤ (0x4020 : Word).toNat ∧ (0x5FFF : Word).toNat < 0x6000 ∧
    { ldaState with env := { Env.idle with portAnswers := [0x80] } }.env.portAnswers = [0x80] := by decide

/-- One address at each end of each range of the write decoder. -/
theorem witness_WritesDecodeToOneTarget :
    (0x1FFF : Word).toNat < 0x2000 ∧ 0x2000 ≤ (0x2000 : Word).toNat ∧ (0x3FFF : Word).toNat < 0x4000 ∧
    0x4000 ≤ (0x4000 : Word).toNat ∧ (0x4013 : Word).toNat ≤ 0x4013 ∧ (0x4014 : Word).toNat = 0x4014 ∧
    (0x4015 : Word).toNat ≠ 0x4014 ∧ (0x4016 : Word).toNat = 0x4016 ∧ (0x4017 : Word).toNat = 0x4017 ∧
    0x4018 ≤ (0x4018 : Word).toNat ∧ (0x401F : Word).toNat < 0x4020 ∧ 0x4020 ≤ (0x4020 : Word).toNat := by decide

theorem witness_RamMirrorsShareCells : (0x07FF : Word).toNat < 0x2000 ∧ (0x1FFF : Word).toNat < 0x2000 ∧
    (0x07FF : Word) &&& 0x07FF = (0x1FFF : Word) &&& 0x07FF ∧ (0x0000 : Word) &&& 0x07FF ≠ (0x1FFF : Word) &&& 0x07FF := by
  decide

/-- Pages of each kind (RAM, PPU registers, the page of $4000, open bus and the cartridge), with the addresses where the
clauses on a byte meet, and an environment with two answers. -/
theorem witness_OamDmaCopiesAPage :
    (∀ page ∈ ([0x00, 0x1F, 0x20, 0x3F, 0x40, 0x41, 0x5F, 0x60, 0xFF] : List Byte),
      { ldaState with dmaPage := some page, env := { Env.idle with portAnswers := [0x80, 0x01] } }.dmaPage = some page) ∧
    (0x1F * 256 + 255 < 0x2000 ∧ 0x4000 ≤ 0x40 * 256 + 0x14 ∧ 0x40 * 256 + 0x1F < 0x4020 ∧ 0x4020 ≤ 0x40 * 256 + 0x20) := by
  decide

theorem witness_NromIgnoresRomWrites : State.reset.cart.board = .nrom ∧ 0x8000 ≤ (0x8000 : Word).toNat ∧
    0x8000 ≤ (0xFFFF : Word).toNat := by decide

theorem witness_NromMapsDirectly : Cart.blank.board = .nrom ∧ Cart.blank.config.prgBanks16k = 1 ∧
    Cart.blank.config.hasPrgRam = false ∧
    (Cart.powerUp ⟨1, 0, true, .horizontal⟩ .nrom [] [] []).config.hasPrgRam = true ∧
    0x8000 ≤ (0x8000 : Word).toNat ∧ (0xBFFF : Word).toNat < 0xC000 ∧ 0x6000 ≤ (0x6000 : Word).toNat ∧
    (0x7FFF : Word).toNat < 0x8000 := by decide

theorem witness_Mmc1ResetWrite : (mmc1Cart 8 4 []).board = .mmc1 Mmc1.powerOn ∧ 0x8000 ≤ (0x8000 : Word).toNat ∧
    (0x80 : Byte).getLsbD 7 = true := by decide

theorem witness_Mmc1DataWriteOnlyShifts : (0x7F : Byte).getLsbD 7 = false ∧ Mmc1.powerOn.count < 4 ∧
    Mmc1.powerOn.shift.toNat < 2 ^ Mmc1.powerOn.count ∧
    (let r : Mmc1 := { Mmc1.powerOn with shift := 7, count := 3 }
     r.count < 4 ∧ r.shift.toNat < 2 ^ r.count) := by decide

theorem witness_Mmc1FiveWritesCommit : (mmc1Cart 8 4 []).board = .mmc1 Mmc1.powerOn ∧ Mmc1.powerOn.shift = 0 ∧
    Mmc1.powerOn.count = 0 ∧ (∀ a ∈ ([0x8000, 0xFFFF, 0x9FFF, 0xA000, 0xBFFF] : List Word), 0x8000 ≤ a.toNat) ∧
    (∀ a ∈ ([0xC000, 0xDFFF, 0xE000] : List Word), 0x8000 ≤ a.toNat) ∧
    (∀ v ∈ ([0x00, 0x01, 0x7F, 0x7E, 0x01] : List Byte), v.getLsbD 7 = false) :=
  ⟨rfl, rfl, rfl, by simp, by simp, by decide⟩

theorem witness_Mmc1TranslatesPrg : (banked 8 0x00 5).board = .mmc1 ⟨0, 0, 0x00, 0, 0, 5⟩ ∧
    [(0x00 : BitVec 5), 0x04, 0x08, 0x0C].map (fun c => c.toNat / 4 % 4) = [0, 1, 2, 3] ∧
    (0xBFFF : Word).toNat < 0xC000 ∧ 0xC000 ≤ (0xC000 : Word).toNat := by decide

theorem witness_PpuSideReadsItsBank : (mmc1Cart 8 0 []).config.chrBanks8k = 0 ∧
    (mmc1Cart 8 4 []).config.chrBanks8k ≠ 0 := by decide

theorem witness_StepNeverChangesRom : ∃ t, step { launch [0x9D, 0xFF, 0x02] [] with a := 0xAB, x := 1 } = .next t := by
  obtain ⟨t, h, _⟩ := next_of_traffic test_sta_ls35_traffic
  exact ⟨t, h⟩

theorem witness_MapperChangesOnlyByWrites : ∃ t, step ldaState = .next t ∧
    ∀ a v, BusTxn.write a v ∈ t.out.bus → a.toNat < 0x8000 := by
  obtain ⟨t, h, hb⟩ := next_of_traffic ldaState_traffic
  refine ⟨t, h, fun a v hm => ?_⟩
  rw [← List.mem_reverse, hb] at hm
  simp at hm

theorem witness_StepKeepsInvariant : ldaState.inv = true ∧ ∃ t, step ldaState = .next t :=
  ⟨by decide, ldaState_steps⟩

theorem witness_ReachableStatesMeetInvariant : ∃ s, Reachable s := by
  obtain ⟨c, hc, _⟩ := fullImage_loads 0 16384 [] (by decide) (by decide)
  exact ⟨State.powerUp c [] Env.idle, .powerUp (buf := fullImage 0 16384) (ramInit := []) (prgRamInit := [])
    (env := Env.idle) rfl rfl (by unfold powerUpImage; rw [hc])⟩

theorem witness_TraceLineHasItsLayout :
    let s : State := { State.powerUp vectorCart [] Env.idle with pc := 0x8000 }.withFetchWord 16 0x00A9
    ∃ u rest, boundary s = .run u ∧ decode (readBytes 3 u).1 = .ok (.ldaImm 0, rest) ∧ s.pc = 0x8000 ∧ s.a = 0 ∧
      s.x = 0 ∧ s.y = 0 ∧ s.p = 0x24 ∧ s.sp = 0xFD ∧ s.cycles = 7 := ⟨_, _, rfl, rfl, rfl, rfl, rfl, rfl, rfl, rfl, rfl⟩

/-- The machines that have no trace line: an NMI seen, an unmasked IRQ, an undocumented byte at PC, a halted machine. -/
theorem witness_TraceLineHasItsLayout_none :
    nmiSeen (service [0xEA] 0x24 [true] false) = true ∧
    (irqLevel (service [0xEA] 0x20 [] true) = true ∧ flagI (service [0xEA] 0x20 [] true).p = false) ∧
    (∀ s ∈ [launch [0x02] [], afterStep (launch [0x02] [])],
      (match step s with | .fault _ => true | .next _ | .refused _ => false) = true) := by decide

end Sys2Proof.Tests
end

/-! The state family (spec/10_state.md): the registers at power-up and reset (R42), the stack (R21), and the invariant of
R45, which every step and every act of the host keeps. -/

section

namespace Sys2Proof.Machine

/-! ## Power-up and reset -/

/-- A reset is a power-up with the RAM, the cartridge and the inputs in place, but for `irq_line` and the record of the
port calls, which it keeps (spec/70_reset_and_hazards.md R300, R301). -/
theorem resetCpu_eq_powerUp (s : State) : resetCpu s =
    { State.powerUp s.cart s.ram s.env with
      irqLine := s.irqLine, out := { (State.powerUp s.cart s.ram s.env).out with ports := s.out.ports } } := by
  simp only [resetCpu, read16_eq]
  rw [readPair_cartridge resetVector (resetVector + 1) _ (by decide) (by decide)]
  rfl

/-- P after power-up and reset, flag by flag (spec/10_state.md R42): I and bit 5 alone. -/
theorem flags_of_0x24 : flagN 0x24 = false ∧ flagV 0x24 = false ∧ flagD 0x24 = false ∧ flagI 0x24 = true ∧
    flagZ 0x24 = false ∧ flagC 0x24 = false ∧ (0x24 : Byte).getLsbD 5 = true ∧ (0x24 : Byte).getLsbD 4 = false := by
  decide

/-- Settles O1: a reset is a power-up with other ports and another `irq_line`, so both states are read off one record. -/
theorem powerUpRegisters : Obligations.PowerUpRegisters := by
  unfold Obligations.PowerUpRegisters
  intro c ram e running
  refine ⟨rfl, fun s hs => ?_⟩
  obtain ⟨c', ram', e', irq, ports, rfl⟩ : ∃ c' ram' e' irq ports, s =
      { State.powerUp c' ram' e' with
        irqLine := irq, out := { (State.powerUp c' ram' e').out with ports := ports } } := by
    rcases List.mem_pair.1 hs with rfl | rfl
    · exact ⟨c, ram, e, _, _, rfl⟩
    · exact ⟨_, _, _, _, _, resetCpu_eq_powerUp running⟩
  have noWrite (a : Word) (v : Byte) : BusTxn.write a v ∉ (State.powerUp c' ram' e').out.bus := by
    simp [State.powerUp]
  obtain ⟨fn, fv, fd, fi, fz, fc, bit5, bit4⟩ := flags_of_0x24
  exact ⟨rfl, rfl, rfl, rfl, rfl, fn, fv, fd, fi, fz, fc, bit5, bit4, rfl, rfl, .refl _, noWrite⟩

/-! ## The stack -/

theorem push_sp_toNat (v : Byte) (s : State) : (push v s).sp.toNat = (s.sp.toNat + 255) % 256 := by
  rw [push_sp, BitVec.toNat_sub, Nat.add_comm]
  rfl

theorem pull_sp_toNat (s : State) : (pull s).2.sp.toNat = (s.sp.toNat + 1) % 256 := by
  rw [pull_sp, BitVec.toNat_add]
  rfl

theorem pull_push_sp (v : Byte) (s : State) : (pull (push v s)).2.sp = s.sp := by
  rw [pull_sp, push_sp, BitVec.sub_add_cancel]

theorem pull_push_value (v : Byte) (s : State) : (pull (push v s)).1 = v := by
  rw [pull_value, push_ram, push_sp, BitVec.sub_add_cancel, Memory.read_write_same]

/-- Settles O46, by the laws of one push and one pull. -/
theorem stackStaysInPageOne : Obligations.StackStaysInPageOne := by
  unfold Obligations.StackStaysInPageOne
  intro v s
  have pulled : (pull s).2.out.bus = .read (stackAddr (s.sp + 1)) (pull s).1 :: s.out.bus := by
    rw [pull_bus, pull_value]
  exact ⟨stackAddr_toNat s.sp, push_sp_toNat v s, push_bus v s, pull_sp_toNat s, pulled, pull_push_value v s,
    pull_push_sp v s⟩

/-! ## One step that gives a next state -/

/-- A step that gives a next state is a chain of acts and the end of the step, on the machine that has sampled its inputs
and has no NMI latched (an NMI entry clears the latch, any other step begins with none). -/
theorem acts_of_step {s t : State} (h : step s = .next t) :
    ∃ n u, t = endStep n u ∧ Acts ((sampled s).setNmiPending false) u := by
  rcases step_cases s with ⟨-, hf⟩ | ⟨op, pc, -, hf⟩ | ⟨n, u, -, hn, -, -, hu⟩
  · rw [hf] at h; cases h
  · rw [hf] at h; cases h
  · rw [hn] at h
    cases h
    refine ⟨n, u, rfl, ?_⟩
    rcases hu with hu | ⟨hu, hp⟩
    · exact hu
    · have same : (sampled s).setNmiPending false = sampled s := by rw [← hp]; rfl
      rwa [same]

/-- Settles O55: no act of a step changes ROM, the configuration or CHR-RAM, and the end of a step leaves the cartridge
alone. -/
theorem stepNeverChangesRom : Obligations.StepNeverChangesRom := by
  unfold Obligations.StepNeverChangesRom
  intro s t h
  obtain ⟨n, u, rfl, hu⟩ := acts_of_step h
  simpa using hu.rom

/-! ## The invariant (R45) -/

/-- The invariant looks at P, `dma_page`, RAM and the cartridge alone. -/
theorem State.inv_congr {s t : State} (hp : t.p = s.p) (hd : t.dmaPage = s.dmaPage) (hr : t.ram = s.ram)
    (hc : t.cart = s.cart) : t.inv = s.inv := by
  unfold State.inv
  rw [hp, hd, hr, hc]

theorem powerUp_inv {c : Cart} {ram : Memory} (e : Env) (hc : c.inv = true) (hr : ram.wf ramSize = true) :
    (State.powerUp c ram e).inv = true :=
  (State.inv_iff _).2 ⟨(by decide : (0x24 : Byte) &&& 0x30 = 0x20), rfl, hr, hc⟩

theorem Cart.inv_blank : Cart.blank.inv = true := by decide

/-- Settles O57: the blank cartridge is a legal one, and the empty RAM is in canonical form. -/
theorem resetMeetsInvariant : Obligations.ResetMeetsInvariant :=
  powerUp_inv Env.idle Cart.inv_blank rfl

/-- A step that gives a next state keeps the invariant: each part is kept by every act, and the end of a step empties
`dma_page`. -/
theorem step_keeps_inv {s t : State} (h : step s = .next t) (hs : s.inv = true) : t.inv = true := by
  obtain ⟨hp, -, hr, hc⟩ := (State.inv_iff s).1 hs
  obtain ⟨n, u, rfl, hu⟩ := acts_of_step h
  have p : u.p &&& 0x30 = 0x20 := hu.fixedBits (by simpa using hp)
  have ram : u.ram.wf ramSize = true := hu.ramWf (by simpa using hr)
  have cart : u.cart.inv = true := hu.cartInv (by simpa using hc)
  exact (State.inv_iff _).2 ⟨by simpa using p, endStep_dmaPage n u, by simpa using ram, by simpa using cart⟩

/-- Settles O58. -/
theorem stepKeepsInvariant : Obligations.StepKeepsInvariant := by
  unfold Obligations.StepKeepsInvariant
  intro s t hs h
  exact step_keeps_inv h hs

/-! ## What the host makes of a machine -/

/-- What the host holds after calling `step`: the machine as it was when it is halted, the machine a BadOpcode leaves, or
the next state. -/
theorem afterStep_cases (s : State) :
    afterStep s = s ∨ (∃ op pc, fetchInstr (sampled s) = .bad op pc (afterStep s)) ∨ step s = .next (afterStep s) := by
  cases hb : boundary s with
  | halted => exact .inl (by simp only [afterStep, hb])
  | entry t => exact .inr (.inr (by simp only [afterStep, step, hb]))
  | run t =>
    obtain ⟨-, rfl, -, -⟩ := boundary_run hb
    cases hf : fetchInstr (sampled s) with
    | bad op pc u => exact .inr (.inl ⟨op, pc, by simp only [afterStep, hb, hf]⟩)
    | instr i u =>
      obtain ⟨n, v, he, -⟩ := exec_answers i u
      exact .inr (.inr (by simp only [afterStep, step, hb, hf, he]))

/-- The machine a BadOpcode leaves has read the opcode and is halted (spec/60_exceptions.md R262). -/
theorem eq_of_fetchInstr_bad {s t : State} {op : Byte} {pc : Word} (h : fetchInstr s = .bad op pc t) :
    t = (busRead s.pc s).2.setHalted true := by
  have k := fetchInstr_reads s
  rw [h] at k
  obtain ⟨-, -, -, ht⟩ := k
  exact ht

theorem afterStep_keeps_inv {s : State} (hs : s.inv = true) : (afterStep s).inv = true := by
  rcases afterStep_cases s with h | ⟨op, pc, h⟩ | h
  · rwa [h]
  · rw [eq_of_fetchInstr_bad h, State.inv_congr (s := s) (by simp) (by simp) (by simp) (by simp)]
    exact hs
  · exact step_keeps_inv h hs

/-- A reset sets P and empties `dma_page`, whatever they were, and keeps RAM and the cartridge. -/
theorem resetCpu_keeps_inv {s : State} (hs : s.inv = true) : (resetCpu s).inv = true := by
  obtain ⟨-, -, hr, hc⟩ := (State.inv_iff s).1 hs
  rw [resetCpu_eq_powerUp]
  exact powerUp_inv s.env hc hr

theorem ppuSideWrite_keeps_inv {s : State} (addr : Word) (v : Byte) (hs : s.inv = true) :
    (ppuSideWrite addr v s).inv = true := by
  obtain ⟨hp, hd, hr, hc⟩ := (State.inv_iff s).1 hs
  exact (State.inv_iff _).2 ⟨hp, hd, hr, Cart.inv_ppuWrite s.cart addr v hc⟩

/-- Power-up from an accepted image is a power-up with the cartridge the image loads as. -/
theorem powerUpImage_eq_ok {buf : List Byte} {ramInit prgRamInit : Memory} {e : Env} {s : State}
    (h : powerUpImage buf ramInit prgRamInit e = .ok s) :
    ∃ c, loadImage buf prgRamInit = .ok c ∧ s = State.powerUp c ramInit e := by
  unfold powerUpImage at h
  cases hl : loadImage buf prgRamInit with
  | error err => rw [hl] at h; cases h
  | ok c => rw [hl] at h; cases h; exact ⟨c, rfl, rfl⟩

/-- Settles O59, by induction on how the state was reached: power-up meets the invariant and every act keeps it. -/
theorem reachableStatesMeetInvariant : Obligations.ReachableStatesMeetInvariant := by
  unfold Obligations.ReachableStatesMeetInvariant
  intro s h
  induction h with
  | @powerUp buf ramInit prgRamInit env s ram prgRam image =>
    obtain ⟨c, hl, rfl⟩ := powerUpImage_eq_ok image
    exact powerUp_inv env (Cart.inv_loadImage buf prgRamInit c prgRam hl) ram
  | step _ ih => exact afterStep_keeps_inv ih
  | reset _ ih => exact resetCpu_keeps_inv ih
  | irq b _ ih => exact ih
  | environment e _ ih => exact ih
  | ppuWrite addr v _ ih => exact ppuSideWrite_keeps_inv addr v ih

end Sys2Proof.Machine

end

/-! The memory family (spec/20_memory.md): the cartridge image, the bus decoder and RAM's mirrors, the OAMDMA, and NROM
and MMC1 on the CPU and the PPU side. -/

section

namespace Sys2Proof.Machine

/-! ## The cartridge image (R70 to R72) -/

theorem imagePrgStart_eq (buf : List Byte) :
    imagePrgStart buf = 16 + if (imageByte buf 6).getLsbD 2 then 512 else 0 := by
  unfold imagePrgStart
  split <;> rfl

theorem imageLength_eq (buf : List Byte) : imageLength buf = 16 + (if (imageByte buf 6).getLsbD 2 then 512 else 0) +
    (imageByte buf 4).toNat * 16384 + (imageByte buf 5).toNat * 8192 := by
  rw [imageLength, imagePrgStart_eq]
  rfl

theorem imageBoard_eq_none {buf : List Byte} (h : ¬ (imageMapper buf = 0 ∨ imageMapper buf = 1)) :
    imageBoard buf = none := by
  unfold imageBoard
  rw [if_neg fun h0 => h (.inl h0), if_neg fun h1 => h (.inr h1)]

/-- The board of a header that names one of the two mappers. -/
theorem imageBoard_eq_some {buf : List Byte} (h : imageMapper buf = 0 ∨ imageMapper buf = 1) :
    imageBoard buf = some (if imageMapper buf = 0 then .nrom else .mmc1 Mmc1.powerOn) := by
  unfold imageBoard
  by_cases h0 : imageMapper buf = 0
  · rw [if_pos h0, if_pos h0]
  · rw [if_neg h0, if_neg h0, if_pos (h.resolve_left h0)]

/-- The cartridge an accepted image loads as: its parts cut out of the image after the header and the trainer. -/
def imageCart (buf : List Byte) (ram : Memory) : Cart :=
  let prg := buf.drop (imagePrgStart buf)
  Cart.powerUp (imageConfig buf) (if imageMapper buf = 0 then .nrom else .mmc1 Mmc1.powerOn)
    (Memory.ofBytes (prg.take (prgSize (imageConfig buf))))
    (Memory.ofBytes ((prg.drop (prgSize (imageConfig buf))).take ((imageConfig buf).chrBanks8k * 0x2000))) ram

/-- The loader past the tests of the magic and of the header's length. -/
theorem loadImage_of_header {buf : List Byte} (ram : Memory) (hm : buf.take 4 = [0x4E, 0x45, 0x53, 0x1A])
    (hl : 16 ≤ buf.length) : loadImage buf ram =
      if ¬ (imageMapper buf = 0 ∨ imageMapper buf = 1) then .error .unsupportedMapper
      else if imageByte buf 4 = 0 then .error .invalidHeader
      else if buf.length < imageLength buf then .error .truncated
      else .ok (imageCart buf ram) := by
  have banks : (imageConfig buf).prgBanks16k = 0 ↔ imageByte buf 4 = 0 := BitVec.toNat_inj (y := 0)
  unfold loadImage
  rw [if_neg (not_not.2 hm), if_neg (Nat.not_lt.2 hl)]
  by_cases h : imageMapper buf = 0 ∨ imageMapper buf = 1
  · rw [imageBoard_eq_some h, if_neg (not_not.2 h)]
    simp only [banks]
    rfl
  · rw [imageBoard_eq_none h, if_pos h]

theorem loadImage_no_magic {buf : List Byte} (ram : Memory) (h : buf.take 4 ≠ [0x4E, 0x45, 0x53, 0x1A]) :
    loadImage buf ram = .error .invalidHeader := if_pos h

theorem loadImage_short {buf : List Byte} (ram : Memory) (hm : buf.take 4 = [0x4E, 0x45, 0x53, 0x1A])
    (hl : buf.length < 16) : loadImage buf ram = .error .truncated := by
  unfold loadImage
  rw [if_neg (not_not.2 hm), if_pos hl]

/-- Settles O3, test by test. -/
theorem imageRefusedInOrder : Obligations.ImageRefusedInOrder := by
  unfold Obligations.ImageRefusedInOrder
  intro buf ram magic mapper trainer declared
  have length : imageLength buf = declared := imageLength_eq buf
  have named : imageMapper buf = mapper := rfl
  refine ⟨loadImage_no_magic ram, loadImage_short ram, fun hm hl h0 h1 => ?_, fun hm hl h hz => ?_,
    fun hm hl h hz hd => ?_, fun hm hl h hz hd => ⟨imageCart buf ram, ?_⟩⟩ <;>
    rw [loadImage_of_header ram hm hl, named]
  · exact if_pos (not_or.2 ⟨h0, h1⟩)
  · rw [if_neg (not_not.2 h), if_pos hz]
  · rw [if_neg (not_not.2 h), if_neg hz, length, if_pos hd]
  · rw [if_neg (not_not.2 h), if_neg hz, length, if_neg (Nat.not_lt.2 hd)]

theorem loadImage_eq_ok {buf : List Byte} {ram : Memory} {c : Cart} (h : loadImage buf ram = .ok c) :
    c = imageCart buf ram := by
  by_cases hm : buf.take 4 = [0x4E, 0x45, 0x53, 0x1A]
  · by_cases hl : buf.length < 16
    · rw [loadImage_short ram hm hl] at h; cases h
    · rw [loadImage_of_header ram hm (Nat.not_lt.1 hl)] at h
      split_ifs at h
      exact (Except.ok.inj h).symm
  · rw [loadImage_no_magic ram hm] at h; cases h

/-- A byte of a piece cut out of an image. -/
theorem read_ofBytes_piece (buf : List Byte) (start size i : Nat) (h : i < size) :
    (Memory.ofBytes ((buf.drop start).take size)).read i = imageByte buf (start + i) := by
  rw [Memory.read_ofBytes, imageByte, List.getD_eq_getElem?_getD, List.getElem?_take_of_lt h, List.getElem?_drop,
    List.getD_eq_getElem?_getD]

/-- Settles O4: the fields of the cartridge an accepted image loads as. -/
theorem imageLoadsItsBytes : Obligations.ImageLoadsItsBytes := by
  unfold Obligations.ImageLoadsItsBytes
  intro buf ram c h start mapper
  obtain rfl := loadImage_eq_ok h
  refine ⟨rfl, rfl, rfl, rfl, rfl, rfl, rfl, rfl, fun i hi => ?_, fun i hi => ?_⟩
  · exact read_ofBytes_piece buf start _ i hi
  · simp only [imageCart, List.drop_drop]
    exact read_ofBytes_piece buf _ _ i hi

/-! ## Reading: device ports and the rest (R53) -/

/-- Whether an address reads from a device port: a PPU register, `$4015` or a controller. -/
def deviceAt (n : Nat) : Bool := 0x2000 ≤ n && n < 0x4000 || 0x4015 ≤ n && n ≤ 0x4017

/-- The port call a read of a device's address makes (R56, R58, R59). -/
def deviceCall (n : Nat) (b : Byte) : PortCall :=
  if n < 0x4000 then .ppuRead (BitVec.ofNat 3 (n % 8)) b
  else if n = 0x4015 then .apuRead b
  else if n = 0x4016 then .controller1Read b else .controller2Read b

theorem deviceAt_iff (n : Nat) : deviceAt n = true ↔
    0x2000 ≤ n ∧ n < 0x4000 ∨ n = 0x4015 ∨ n = 0x4016 ∨ n = 0x4017 := by
  simp only [deviceAt, Bool.or_eq_true, Bool.and_eq_true, decide_eq_true_eq]
  omega

/-- An address of no device port is RAM's, open bus or the cartridge's. -/
theorem deviceAt_eq_false_iff (n : Nat) : deviceAt n = false ↔
    n < 0x2000 ∨ (0x4000 ≤ n ∧ n < 0x4015 ∨ 0x4018 ≤ n ∧ n < 0x4020) ∨ 0x4020 ≤ n := by
  rw [← Bool.not_eq_true, deviceAt_iff]
  omega

theorem ppuReg_eq (a : Word) : ppuReg a = BitVec.ofNat 3 (a.toNat % 8) :=
  BitVec.eq_of_toNat_eq (by simp [ppuReg])

theorem readTarget_ppu (a : Word) (h : 0x2000 ≤ a.toNat) (h' : a.toNat < 0x4000) :
    readTarget a = .ppu (BitVec.ofNat 3 (a.toNat % 8)) := by
  unfold readTarget
  rw [if_neg (by omega), if_pos h', ppuReg_eq]

theorem readFrom_device (a : Word) (s : State) (h : deviceAt a.toNat = true) :
    readFrom a s = portRead (deviceCall a.toNat) s := by
  rcases (deviceAt_iff a.toNat).1 h with ⟨hl, hh⟩ | ha | ha | ha
  · have call : deviceCall a.toNat = .ppuRead (BitVec.ofNat 3 (a.toNat % 8)) := funext fun _ => if_pos hh
    simp only [readFrom, readTarget_ppu a hl hh, call]
  · obtain rfl : a = 0x4015 := BitVec.eq_of_toNat_eq ha
    rfl
  · obtain rfl : a = 0x4016 := BitVec.eq_of_toNat_eq ha
    rfl
  · obtain rfl : a = 0x4017 := BitVec.eq_of_toNat_eq ha
    rfl

/-- A device port's read: its answer, and one call of the port. -/
theorem busRead_device (a : Word) (s : State) (h : deviceAt a.toNat = true) :
    busRead a s =
      (portAnswer s, (portRead (deviceCall a.toNat) s).2.logBus (.read a (portAnswer s))) := by
  simp only [busRead, readFrom_device a s h, portRead_eq]

/-- A read of no device port only records its transaction. -/
theorem busRead_no_device (a : Word) (s : State) (h : deviceAt a.toNat = false) :
    (busRead a s).2 = s.logBus (.read a (busRead a s).1) := by
  rcases (deviceAt_eq_false_iff a.toNat).1 h with ha | ha | ha
  · rw [busRead_at_ram a s ha]
  · rw [busRead_at_openBus a s ha]
  · rw [busRead_at_cartridge a s ha]

theorem busRead_device_ports (a : Word) (s : State) (h : deviceAt a.toNat = true) :
    (busRead a s).2.out.ports = deviceCall a.toNat (busRead a s).1 :: s.out.ports := by
  rw [busRead_device a s h]
  rfl

theorem busRead_device_env (a : Word) (s : State) (h : deviceAt a.toNat = true) :
    (busRead a s).2.env =
      { s.env with portAnswers := s.env.portAnswers.tail, portReads := s.env.portReads + 1 } := by
  rw [busRead_device a s h]
  rfl

/-- While the script of answers lasts, a device port answers its next byte. -/
theorem busRead_device_scripted (a : Word) (s : State) (h : deviceAt a.toNat = true) {b : Byte} {bs : List Byte}
    (hs : s.env.portAnswers = b :: bs) : (busRead a s).1 = b := by
  rw [busRead_device a s h]
  simp only [portAnswer, hs]

theorem busRead_no_device_ports (a : Word) (s : State) (h : deviceAt a.toNat = false) :
    (busRead a s).2.out.ports = s.out.ports := by
  rw [busRead_no_device a s h, State.logBus_ports]

theorem busRead_no_device_env (a : Word) (s : State) (h : deviceAt a.toNat = false) : (busRead a s).2.env = s.env := by
  rw [busRead_no_device a s h, State.logBus_env]

theorem Cart.cpuRead_of_lt (c : Cart) (a : Word) (h : a.toNat < 0x6000) : c.cpuRead a = Config.openBusValue :=
  if_pos h

/-- Settles O43: an address is a device port's, and its read is one call of the port, or it is not, and the read is
silent. -/
theorem readsDecodeToOneTarget : Obligations.ReadsDecodeToOneTarget := by
  unfold Obligations.ReadsDecodeToOneTarget
  intro a s v t n
  have device (h : deviceAt n = true) : t.out.ports = deviceCall n v :: s.out.ports := busRead_device_ports a s h
  have silent (h : n < 0x2000 ∨ (0x4000 ≤ n ∧ n < 0x4015 ∨ 0x4018 ≤ n ∧ n < 0x4020) ∨ 0x4020 ≤ n) :
      t.env = s.env ∧ t.out.ports = s.out.ports :=
    have hd := (deviceAt_eq_false_iff n).2 h
    ⟨busRead_no_device_env a s hd, busRead_no_device_ports a s hd⟩
  refine ⟨busRead_keeps a s, memoryKept_of_eq (busRead_ram a s) (busRead_cart a s), busRead_bus a s,
    busRead_returned a s, fun h => ?_, fun h h' => ?_, fun h => ?_, fun h => ?_, fun h => ?_, fun h => ?_, fun h => ?_,
    fun h => ?_, fun h h' => ?_⟩
  · exact ⟨congrArg Prod.fst (busRead_at_ram a s h), silent (.inl h)⟩
  · rw [device ((deviceAt_iff n).2 (.inl ⟨h, h'⟩)), deviceCall, if_pos h']
  · rw [device ((deviceAt_iff n).2 (by omega)), h]; rfl
  · rw [device ((deviceAt_iff n).2 (by omega)), h]; rfl
  · rw [device ((deviceAt_iff n).2 (by omega)), h]; rfl
  · have hd := (deviceAt_iff n).2 h
    have env := busRead_device_env a s hd
    refine ⟨env, fun b bs hs => ⟨busRead_device_scripted a s hd hs, ?_⟩⟩
    rw [env, hs, List.tail_cons]
  · have ho : 0x4000 ≤ n ∧ n < 0x4015 ∨ 0x4018 ≤ n ∧ n < 0x4020 := by omega
    exact ⟨congrArg Prod.fst (busRead_at_openBus a s ho), silent (.inr (.inl ho))⟩
  · exact ⟨congrArg Prod.fst (busRead_at_cartridge a s h), silent (.inr (.inr h))⟩
  · exact (congrArg Prod.fst (busRead_at_cartridge a s h)).trans (Cart.cpuRead_of_lt s.cart a h')

/-! ## Writing (R54) -/

theorem busWrite_at_ppu (a : Word) (v : Byte) (s : State) (h : 0x2000 ≤ a.toNat) (h' : a.toNat < 0x4000) :
    busWrite a v s = (s.logPort (.ppuWrite (BitVec.ofNat 3 (a.toNat % 8)) v)).logBus (.write a v) := by
  have target : writeTarget a = .ppu (BitVec.ofNat 3 (a.toNat % 8)) := by
    unfold writeTarget
    rw [if_neg (by omega), if_pos h', ppuReg_eq]
  simp only [busWrite, writeTo, target]

theorem busWrite_at_apu (a : Word) (v : Byte) (s : State)
    (h : 0x4000 ≤ a.toNat ∧ a.toNat ≤ 0x4013 ∨ a.toNat = 0x4015 ∨ a.toNat = 0x4017) :
    busWrite a v s = (s.logPort (.apuWrite a v)).logBus (.write a v) := by
  rcases h with h | h | h
  · have target : writeTarget a = .apu := by
      unfold writeTarget
      rw [if_neg (by omega), if_neg (by omega), if_pos (by omega)]
    simp only [busWrite, writeTo, target]
  · obtain rfl : a = 0x4015 := BitVec.eq_of_toNat_eq h
    rfl
  · obtain rfl : a = 0x4017 := BitVec.eq_of_toNat_eq h
    rfl

theorem busWrite_at_controllers (a : Word) (v : Byte) (s : State) (h : a.toNat = 0x4016) : busWrite a v s =
    ((s.logPort (.controller1Write (v.getLsbD 0))).logPort (.controller2Write (v.getLsbD 0))).logBus (.write a v) := by
  obtain rfl : a = 0x4016 := BitVec.eq_of_toNat_eq h
  rfl

theorem busWrite_at_nothing (a : Word) (v : Byte) (s : State) (h : 0x4018 ≤ a.toNat) (h' : a.toNat < 0x4020) :
    busWrite a v s = s.logBus (.write a v) := by
  have target : writeTarget a = .nothing := by
    unfold writeTarget
    iterate 7 rw [if_neg (by omega)]
    rw [if_pos h']
  simp only [busWrite, writeTo, target]

/-- A write to RAM, to `$4014` or from `$4018` up calls no port. -/
theorem busWrite_ports_kept (a : Word) (v : Byte) (s : State)
    (h : a.toNat < 0x2000 ∨ a.toNat = 0x4014 ∨ 0x4018 ≤ a.toNat) : (busWrite a v s).out.ports = s.out.ports := by
  rcases h with h | h | h
  · rw [busWrite_at_ram a v s h]; rfl
  · obtain rfl : a = 0x4014 := BitVec.eq_of_toNat_eq h
    rfl
  · by_cases h' : a.toNat < 0x4020
    · rw [busWrite_at_nothing a v s h h']; rfl
    · rw [busWrite_at_cartridge a v s (by omega)]; rfl

/-- Settles O44, target by target. -/
theorem writesDecodeToOneTarget : Obligations.WritesDecodeToOneTarget := by
  unfold Obligations.WritesDecodeToOneTarget
  intro a v s t n
  have dma : t.dmaPage = if a = 0x4014 then some v else s.dmaPage := busWrite_dmaPage a v s
  refine ⟨busWrite_bus a v s, busWrite_a a v s, busWrite_x a v s, busWrite_y a v s, busWrite_sp a v s, busWrite_p a v s,
    busWrite_pc a v s, busWrite_env a v s, fun h => ?_, busWrite_ram_of_le a v s, busWrite_cart_of_lt a v s, fun h => ?_,
    fun h => ?_, fun h => ?_, fun h h' => ?_, fun h => ?_, fun h => ?_, busWrite_ports_kept a v s⟩
  · exact congrArg State.ram (busWrite_at_ram a v s h)
  · exact congrArg State.cart (busWrite_at_cartridge a v s h)
  · rw [dma, if_pos (BitVec.eq_of_toNat_eq h)]
  · exact dma.trans (if_neg fun ha => h (congrArg BitVec.toNat ha))
  · exact congrArg (fun u : State => u.out.ports) (busWrite_at_ppu a v s h h')
  · exact congrArg (fun u : State => u.out.ports) (busWrite_at_apu a v s h)
  · exact congrArg (fun u : State => u.out.ports) (busWrite_at_controllers a v s h)

/-! ## RAM's mirrors (R55) -/

theorem busRead_ram_busWrite (a b : Word) (v : Byte) (s : State) (ha : a.toNat < 0x2000) (hb : b.toNat < 0x2000) :
    (busRead b (busWrite a v s)).1 = if ramCell b = ramCell a then v else (busRead b s).1 := by
  rw [busWrite_at_ram a v s ha, busRead_at_ram b _ hb, busRead_at_ram b s hb, ramCell_eq, ramCell_eq]
  exact Memory.read_write s.ram (a.toNat % 0x800) (b.toNat % 0x800) v

/-- Settles O45: a read names its cell by the address modulo the size of RAM, and so does a write. -/
theorem ramMirrorsShareCells : Obligations.RamMirrorsShareCells := by
  unfold Obligations.RamMirrorsShareCells
  intro a b v s ha hb
  have same : a &&& 0x07FF = b &&& 0x07FF ↔ ramCell b = ramCell a := by
    rw [eq_comm, ← BitVec.toNat_inj]; rfl
  have read := busRead_at_ram b s hb
  refine ⟨?_, ?_, ?_, ?_⟩
  · rw [read, ← ramCell_eq]; rfl
  · simp only [busRead_ram_busWrite a b v s ha hb, same]
  · rw [read]; rfl
  · rw [read]; rfl

/-! ## OAMDMA (R63): the copy in closed form -/

/-- The inputs after `k` device reads: the answers used up and counted. -/
def Env.answered (e : Env) (k : Nat) : Env :=
  { e with portAnswers := e.portAnswers.drop k, portReads := e.portReads + k }

/-- The `k`-th byte the copy from address `base` reads. -/
def dmaByte (base : Nat) (s : State) (k : Nat) : Byte :=
  (busRead (BitVec.ofNat 16 (base + k)) (dmaCopy k (BitVec.ofNat 16 base) s)).1

/-- Which of the first `n` reads of the copy from `base` ask a device port. -/
def dmaAsked (base n : Nat) : List Nat := (List.range n).filter fun k => deviceAt (base + k)

/-- The reads of the copy, in order. -/
def dmaReads (base n : Nat) (s : State) : List BusTxn :=
  (List.range n).map fun k => .read (BitVec.ofNat 16 (base + k)) (dmaByte base s k)

/-- The port calls of the copy, in order: a device's own call before its byte's delivery to PPU register 4. -/
def dmaCalls (base n : Nat) (s : State) : List PortCall :=
  (List.range n).flatMap fun k =>
    (if deviceAt (base + k) then [deviceCall (base + k) (dmaByte base s k)] else []) ++ [.ppuWrite 4 (dmaByte base s k)]

theorem dmaAsked_succ (base n : Nat) :
    dmaAsked base (n + 1) = dmaAsked base n ++ if deviceAt (base + n) then [n] else [] := by
  simp only [dmaAsked, List.range_succ, List.filter_append, List.filter_singleton, cond_eq_ite]

theorem dmaReads_succ (base n : Nat) (s : State) : dmaReads base (n + 1) s =
    dmaReads base n s ++ [.read (BitVec.ofNat 16 (base + n)) (dmaByte base s n)] := by
  simp only [dmaReads, List.range_succ, List.map_append, List.map_singleton]

theorem dmaCalls_succ (base n : Nat) (s : State) : dmaCalls base (n + 1) s = dmaCalls base n s ++
    ((if deviceAt (base + n) then [deviceCall (base + n) (dmaByte base s n)] else []) ++
      [.ppuWrite 4 (dmaByte base s n)]) := by
  simp only [dmaCalls, List.range_succ, List.flatMap_append, List.flatMap_singleton]

/-- One more byte of the copy, by its number. -/
theorem dmaCopy_next (base n : Nat) (s : State) : dmaCopy (n + 1) (BitVec.ofNat 16 base) s =
    (busRead (BitVec.ofNat 16 (base + n)) (dmaCopy n (BitVec.ofNat 16 base) s)).2.logPort
      (.ppuWrite 4 (dmaByte base s n)) := by
  rw [dmaCopy_succ, ← BitVec.ofNat_add]
  rfl

/-- What a read does to the machine, in one record. -/
theorem busRead_state (a : Word) (s : State) : (busRead a s).2 = { s with
    env := s.env.answered (if deviceAt a.toNat then 1 else 0)
    out := { s.out with
      bus := .read a (busRead a s).1 :: s.out.bus
      ports := (if deviceAt a.toNat then [deviceCall a.toNat (busRead a s).1] else []) ++ s.out.ports } } := by
  cases h : deviceAt a.toNat with
  | true =>
    rw [busRead_device a s h]
    simp only [if_true, Env.answered, List.drop_one]
    rfl
  | false =>
    rw [busRead_no_device a s h]
    rfl

theorem toNat_ofNat_word {n : Nat} (h : n < 0x10000) : (BitVec.ofNat 16 n).toNat = n := by
  rw [BitVec.toNat_ofNat]
  omega

/-- What the read of the copy's next byte does to the machine. -/
theorem dmaCopy_read (base n : Nat) (s t : State) (h : base + n < 0x10000)
    (ht : t = dmaCopy n (BitVec.ofNat 16 base) s) : (busRead (BitVec.ofNat 16 (base + n)) t).2 = { t with
    env := t.env.answered (if deviceAt (base + n) then 1 else 0)
    out := { t.out with
      bus := .read (BitVec.ofNat 16 (base + n)) (dmaByte base s n) :: t.out.bus
      ports :=
        (if deviceAt (base + n) then [deviceCall (base + n) (dmaByte base s n)] else []) ++ t.out.ports } } := by
  rw [dmaByte, ← ht, busRead_state, toNat_ofNat_word h]

/-- What the copy of `n` bytes makes of the machine. -/
theorem dmaCopy_eq (base n : Nat) (s : State) (h : base + n ≤ 0x10000) : dmaCopy n (BitVec.ofNat 16 base) s = { s with
    env := s.env.answered (dmaAsked base n).length
    out := { s.out with
      bus := (dmaReads base n s).reverse ++ s.out.bus
      ports := (dmaCalls base n s).reverse ++ s.out.ports } } := by
  induction n with
  | zero => rfl
  | succ n ih =>
    rw [dmaCopy_next, dmaCopy_read base n s _ (by omega) rfl, ih (by omega), dmaAsked_succ, dmaReads_succ,
      dmaCalls_succ]
    cases deviceAt (base + n) <;> simp [State.logPort, State.setOut, Env.answered, Nat.add_assoc]

/-! ### The bytes the copy reads -/

theorem dmaByte_ram (base k : Nat) (s : State) (h : base + k < 0x2000) :
    dmaByte base s k = s.ram.read ((base + k) % 0x800) := by
  have addr := toNat_ofNat_word (n := base + k) (by omega)
  rw [dmaByte, busRead_at_ram _ _ (by omega), addr, dmaCopy_ram]

theorem dmaByte_openBus (base k : Nat) (s : State)
    (h : 0x4000 ≤ base + k ∧ base + k < 0x4015 ∨ 0x4018 ≤ base + k ∧ base + k < 0x4020) :
    dmaByte base s k = Config.openBusValue := by
  have addr := toNat_ofNat_word (n := base + k) (by omega)
  rw [dmaByte, busRead_at_openBus _ _ (by omega)]

theorem dmaByte_cartridge (base k : Nat) (s : State) (h : 0x4020 ≤ base + k) (h' : base + k < 0x10000) :
    dmaByte base s k = s.cart.cpuRead (BitVec.ofNat 16 (base + k)) := by
  have addr := toNat_ofNat_word h'
  rw [dmaByte, busRead_at_cartridge _ _ (by omega), dmaCopy_cart]

/-- A device port gives the answer the copy's earlier reads have left first in the script. -/
theorem dmaByte_device (base k : Nat) (s : State) (h : base + k < 0x10000) (hd : deviceAt (base + k) = true) {b : Byte}
    {bs : List Byte} (hs : s.env.portAnswers.drop (dmaAsked base k).length = b :: bs) : dmaByte base s k = b := by
  refine busRead_device_scripted _ _ ((toNat_ofNat_word h).symm ▸ hd) (bs := bs) ?_
  rw [dmaCopy_eq base k s (by omega)]
  exact hs

/-- A list that agrees with the script as far as both go still does with the script's next byte at its end. -/
theorem take_append_next {script given : List Byte} {b : Byte}
    (agree : given.take script.length = script.take given.length)
    (next : ∀ x xs, script.drop given.length = x :: xs → b = x) :
    (given ++ [b]).take script.length = script.take (given.length + 1) := by
  rcases Nat.lt_or_ge given.length script.length with hl | hl
  · have hb : b = script[given.length] := next _ _ (List.drop_eq_getElem_cons hl)
    rw [List.take_of_length_le hl.le] at agree
    rw [List.take_of_length_le (by simpa using hl), List.take_succ_eq_append_getElem hl, ← agree, ← hb]
  · rw [List.take_append_of_le_length hl, agree, List.take_of_length_le hl, List.take_of_length_le (by omega)]

/-- The copy asks the device ports in order: the bytes they give are the script's, while it lasts. -/
theorem dmaAsked_scripted (base n : Nat) (s : State) (h : base + n ≤ 0x10000) :
    ((dmaAsked base n).map (dmaByte base s)).take s.env.portAnswers.length =
      s.env.portAnswers.take (dmaAsked base n).length := by
  induction n with
  | zero => exact List.take_nil
  | succ n ih =>
    have agree := ih (by omega)
    rw [dmaAsked_succ]
    cases hd : deviceAt (base + n) with
    | false => simpa using agree
    | true =>
      rw [← List.length_map (f := dmaByte base s)] at agree
      have next := take_append_next (b := dmaByte base s n) agree fun x xs hx =>
        dmaByte_device base n s (by omega) hd (by rwa [List.length_map] at hx)
      simpa using next

theorem wordOf_zero (page : Byte) : wordOf page 0 = BitVec.ofNat 16 (page.toNat * 256) := by
  revert page; decide

/-- Settles O47: the copy in closed form, its 256 addresses below $10000. -/
theorem oamDmaCopiesAPage : Obligations.OamDmaCopiesAPage := by
  unfold Obligations.OamDmaCopiesAPage
  intro n page s hp t count addr device call asked
  have hpage := page.isLt
  refine ⟨dmaByte (page.toNat * 256) s, ?_, ?_, ?_, ?_, ?_⟩
  · have hcount : n + dmaCycles (s.cycles + BitVec.ofNat 64 n) = count := (Nat.add_assoc ..).symm
    simp only [t]
    rw [endStep_some n page s hp, hcount, oamDma, wordOf_zero, dmaCopy_eq _ 256 s (by omega)]
    rfl
  · exact fun k _ h => dmaByte_ram _ k s h
  · intro k _ h h' hd
    have range : 0x4000 ≤ addr k ∧ addr k < 0x4015 ∨ 0x4018 ≤ addr k ∧ addr k < 0x4020 := by
      have notDevice := (deviceAt_eq_false_iff (addr k)).1 hd
      omega
    exact dmaByte_openBus _ k s range
  · exact fun k hk h => dmaByte_cartridge _ k s h (by omega)
  · exact dmaAsked_scripted _ 256 s (by omega)

/-! ## The CPU side of the cartridge, range by range -/

theorem Cart.cpuRead_prgRam (c : Cart) (a : Word) (h : 0x6000 ≤ a.toNat) (h' : a.toNat < 0x8000) :
    c.cpuRead a = if c.prgRamPresent then c.prgRam.read (a.toNat - 0x6000) else Config.openBusValue := by
  unfold Cart.cpuRead
  rw [if_neg (by omega), if_pos h']

theorem Cart.cpuRead_rom (c : Cart) (a : Word) (h : 0x8000 ≤ a.toNat) :
    c.cpuRead a = c.prgRom.read (c.prgIndex a) := by
  unfold Cart.cpuRead
  rw [if_neg (by omega), if_neg (by omega)]

theorem Cart.cpuWrite_prgRam (c : Cart) (a : Word) (v : Byte) (h : 0x6000 ≤ a.toNat) (h' : a.toNat < 0x8000) :
    c.cpuWrite a v =
      if c.prgRamPresent then { c with prgRam := c.prgRam.write (a.toNat - 0x6000) v } else c := by
  unfold Cart.cpuWrite
  rw [if_neg (by omega), if_pos h']

/-- A byte written to PRG-RAM is read back at its address, and every other address reads as before. -/
theorem Cart.cpuRead_cpuWrite_prgRam (c : Cart) (a b : Word) (v : Byte) (hp : c.prgRamPresent = true)
    (h : 0x6000 ≤ a.toNat) (h' : a.toNat < 0x8000) :
    (c.cpuWrite a v).cpuRead b = if b = a then v else c.cpuRead b := by
  rw [c.cpuWrite_prgRam a v h h', if_pos hp]
  by_cases hb : 0x6000 ≤ b.toNat ∧ b.toNat < 0x8000
  · have cell : b.toNat - 0x6000 = a.toNat - 0x6000 ↔ b = a := by rw [← BitVec.toNat_inj]; omega
    have present : ({ c with prgRam := c.prgRam.write (a.toNat - 0x6000) v } : Cart).prgRamPresent = true := hp
    rw [Cart.cpuRead_prgRam _ b hb.1 hb.2, Cart.cpuRead_prgRam c b hb.1 hb.2, if_pos present, if_pos hp,
      Memory.read_write]
    simp only [cell]
  · have other : b ≠ a := by rintro rfl; exact hb ⟨h, h'⟩
    rw [if_neg other]
    by_cases hb8 : b.toNat < 0x8000
    · rw [Cart.cpuRead_of_lt _ b (by omega), Cart.cpuRead_of_lt c b (by omega)]
    · rw [Cart.cpuRead_rom _ b (by omega), Cart.cpuRead_rom c b (by omega)]
      rfl

/-! ## NROM -/

section
variable {c : Cart} (hb : c.board = .nrom)
include hb

theorem Cart.prgIndex_nrom (a : Word) : c.prgIndex a = (a.toNat - 0x8000) % (c.config.prgBanks16k * 0x4000) := by
  simp only [Cart.prgIndex, hb]
  rfl

theorem Cart.prgRamPresent_nrom : c.prgRamPresent = c.config.hasPrgRam := by
  simp only [Cart.prgRamPresent, hb]

theorem Cart.cpuWrite_mirroring_nrom (a : Word) (v : Byte) : (c.cpuWrite a v).mirroring = c.mirroring := by
  by_cases h : a.toNat < 0x8000
  · exact (cpuWrite_board_of_lt c a v h).2
  · rw [cpuWrite_nrom c a v hb (by omega)]

theorem Cart.cpuRead_upper_of_one_bank (h1 : c.config.prgBanks16k = 1) (a : Word) (h : 0x8000 ≤ a.toNat)
    (h' : a.toNat < 0xC000) : c.cpuRead (a + 0x4000) = c.cpuRead a := by
  have upper : (a + 0x4000).toNat = a.toNat + 0x4000 := by
    rw [BitVec.toNat_add, show (0x4000 : Word).toNat = 0x4000 from rfl]
    omega
  have mirror : (a.toNat + 0x4000 - 0x8000) % (1 * 0x4000) = (a.toNat - 0x8000) % (1 * 0x4000) := by omega
  rw [c.cpuRead_rom a h, c.cpuRead_rom (a + 0x4000) (by omega), prgIndex_nrom hb, prgIndex_nrom hb, upper, h1, mirror]

end

/-- Settles O49, range by range. -/
theorem nromMapsDirectly : Obligations.NromMapsDirectly := by
  unfold Obligations.NromMapsDirectly
  intro c a b v hb
  refine ⟨fun h => ⟨?_, cpuWrite_nrom c a v hb h⟩, fun h1 => Cart.cpuRead_upper_of_one_bank hb h1 a,
    fun h h' hp => ?_, fun h h' hp => ?_, Cart.cpuWrite_mirroring_nrom hb a v⟩
  · rw [c.cpuRead_rom a h, Cart.prgIndex_nrom hb]
  · have present : c.prgRamPresent = true := (Cart.prgRamPresent_nrom hb).trans hp
    have read (b : Word) := c.cpuRead_cpuWrite_prgRam a b v present h h'
    exact ⟨(read a).trans (if_pos rfl), fun hne => (read b).trans (if_neg hne)⟩
  · have absent : ¬ c.prgRamPresent = true := by rw [Cart.prgRamPresent_nrom hb, hp]; exact Bool.false_ne_true
    rw [c.cpuRead_prgRam a h h', c.cpuWrite_prgRam a v h h', if_neg absent, if_neg absent]
    exact ⟨rfl, rfl⟩

/-- A record of a transaction changes nothing a read returns. -/
theorem busRead_logBus (t : BusTxn) (b : Word) (s : State) : (busRead b (s.logBus t)).1 = (busRead b s).1 := by
  simp only [busRead, readFrom]
  cases readTarget b <;> rfl

/-- Settles O48: the cartridge written back is the one that was there, so only the transaction is recorded. -/
theorem nromIgnoresRomWrites : Obligations.NromIgnoresRomWrites := by
  unfold Obligations.NromIgnoresRomWrites
  intro a b v s hb ha
  have write : busWrite a v s = s.logBus (.write a v) := by
    rw [busWrite_at_cartridge a v s (by omega), cpuWrite_nrom s.cart a v hb ha]
    rfl
  rw [write]
  exact ⟨rfl, rfl, busRead_logBus _ b s⟩

/-! ## The MMC1's port: reset, data writes and the commit (R80 to R83) -/

/-- PRG mode 3 is set and the CHR mode and the mirroring kept by the reset write's `| $0C`. -/
theorem or_0x0C_fields (x : BitVec 5) : (x ||| 0x0C).extractLsb' 2 2 = 3 ∧ (x ||| 0x0C).getLsbD 4 = x.getLsbD 4 ∧
    (x ||| 0x0C).extractLsb' 0 2 = x.extractLsb' 0 2 := by
  revert x; decide

/-- Settles O50. -/
theorem mmc1ResetWrite : Obligations.Mmc1ResetWrite := by
  unfold Obligations.Mmc1ResetWrite
  intro c r a v hb ha hv
  obtain ⟨prgMode, chrMode, mirroring⟩ := or_0x0C_fields r.control
  exact ⟨r.resetWrite, (cpuWrite_mmc1 c r a v hb ha).trans (mmc1Write_reset c r a v hv), rfl, rfl, rfl, prgMode, chrMode,
    mirroring, rfl, rfl, rfl⟩

theorem cpuWrite_mmc1_data {c : Cart} {r : Mmc1} {a : Word} {v : Byte} (hb : c.board = .mmc1 r) (ha : 0x8000 ≤ a.toNat)
    (hv : v.getLsbD 7 = false) (hc : r.count < 4) : c.cpuWrite a v = { c with board := .mmc1 (r.dataWrite v) } :=
  (cpuWrite_mmc1 c r a v hb ha).trans (mmc1Write_data c r a v hv hc)

/-- No translation looks at the shift register or its count. -/
theorem reads_dataWrite {c : Cart} {r : Mmc1} (hb : c.board = .mmc1 r) (v : Byte) (b : Word) :
    ({ c with board := .mmc1 (r.dataWrite v) } : Cart).cpuRead b = c.cpuRead b ∧
    ({ c with board := .mmc1 (r.dataWrite v) } : Cart).ppuRead b = c.ppuRead b := by
  obtain ⟨config, board, mirroring, prgRom, chrRom, prgRam, chrRam⟩ := c
  obtain rfl : board = .mmc1 r := hb
  exact ⟨rfl, rfl⟩

/-- Settles O51: the write sets bit `count` of the shift register, which no translation looks at. -/
theorem mmc1DataWriteOnlyShifts : Obligations.Mmc1DataWriteOnlyShifts := by
  unfold Obligations.Mmc1DataWriteOnlyShifts
  intro c r a b v hb ha hv hc hs
  have write := cpuWrite_mmc1_data hb ha hv hc
  obtain ⟨cpu, ppu⟩ := reads_dataWrite hb v b
  rw [write]
  exact ⟨r.dataWrite v, rfl, Mmc1.shifted_toNat r v r.count (by omega) hs, rfl, rfl, rfl, rfl, rfl, cpu, ppu⟩

theorem commitSelect_toNat (a : Word) : (commitSelect a).toNat = a.toNat / 0x2000 % 4 := by
  simp [commitSelect, BitVec.extractLsb'_toNat, Nat.shiftRight_eq_div_pow]

/-- The register a commit selects, by the quarter of `$8000-$FFFF` the address lies in (R82). -/
theorem commitSelect_eq_iff (a : Word) (h : 0x8000 ≤ a.toNat) (k : BitVec 2) :
    commitSelect a = k ↔ a.toNat / 0x2000 = 4 + k.toNat := by
  have la := a.isLt
  have lk := k.isLt
  rw [← BitVec.toNat_inj, commitSelect_toNat]
  omega

theorem commitSelect_control (a : Word) (h : 0x8000 ≤ a.toNat) : commitSelect a = 0 ↔ a.toNat < 0xA000 := by
  rw [commitSelect_eq_iff a h, show (0 : BitVec 2).toNat = 0 from rfl]
  omega

/-- The commit, register by register. -/
theorem Mmc1.commit_eq (r : Mmc1) (a : Word) (value : BitVec 5) (h : 0x8000 ≤ a.toNat) : r.commit a value =
    { shift := 0, count := 0
      control := if a.toNat < 0xA000 then value else r.control
      chrBank0 := if 0xA000 ≤ a.toNat ∧ a.toNat < 0xC000 then value else r.chrBank0
      chrBank1 := if 0xC000 ≤ a.toNat ∧ a.toNat < 0xE000 then value else r.chrBank1
      prgBank := if 0xE000 ≤ a.toNat then value else r.prgBank } := by
  have control := commitSelect_control a h
  have chr0 : commitSelect a = 1 ↔ 0xA000 ≤ a.toNat ∧ a.toNat < 0xC000 := by
    rw [commitSelect_eq_iff a h, show (1 : BitVec 2).toNat = 1 from rfl]
    omega
  have chr1 : commitSelect a = 2 ↔ 0xC000 ≤ a.toNat ∧ a.toNat < 0xE000 := by
    rw [commitSelect_eq_iff a h, show (2 : BitVec 2).toNat = 2 from rfl]
    omega
  simp only [Mmc1.commit, control, chr0, chr1]
  have quarter : a.toNat < 0xA000 ∨ (0xA000 ≤ a.toNat ∧ a.toNat < 0xC000) ∨ (0xC000 ≤ a.toNat ∧ a.toNat < 0xE000) ∨
    0xE000 ≤ a.toNat := by omega
  rcases quarter with h | h | h | h <;> simp (disch := omega) only [if_pos, if_neg]

theorem mirroringOf_eq (value : BitVec 5) : mirroringOf value =
    if value.toNat % 4 = 0 then .oneScreenLow else if value.toNat % 4 = 1 then .oneScreenHigh
    else if value.toNat % 4 = 2 then .vertical else .horizontal := by
  revert value; decide

theorem bit_zero_toNat (v : Byte) : (v.getLsbD 0).toNat = v.toNat % 2 := by
  revert v; decide

/-- Five bits put together, the first lowest, by the port's shifts and as a number (R82). -/
theorem fiveBits_eq (b1 b2 b3 b4 b5 : Bool) :
    ((0 : BitVec 5) ||| (BitVec.ofBool b1).setWidth 5 <<< 0 ||| (BitVec.ofBool b2).setWidth 5 <<< 1 |||
      (BitVec.ofBool b3).setWidth 5 <<< 2 ||| (BitVec.ofBool b4).setWidth 5 <<< 3 |||
      (BitVec.ofBool b5).setWidth 5 <<< 4) =
    BitVec.ofNat 5 (b1.toNat + 2 * b2.toNat + 4 * b3.toNat + 8 * b4.toNat + 16 * b5.toNat) := by
  revert b1 b2 b3 b4 b5; decide

/-- The write that commits, where the port holds four bits. -/
theorem cpuWrite_mmc1_commit {c : Cart} {r : Mmc1} {a : Word} {v : Byte} (hb : c.board = .mmc1 r)
    (ha : 0x8000 ≤ a.toNat) (hv : v.getLsbD 7 = false) (hc : ¬ r.count < 4) : c.cpuWrite a v = { c with
      board := .mmc1 (r.commit a (r.shifted v 4))
      mirroring := if a.toNat < 0xA000 then mirroringOf (r.shifted v 4) else c.mirroring } := by
  rw [cpuWrite_mmc1 c r a v hb ha, mmc1Write_commit c r a v hv hc]
  simp only [commitSelect_control a ha]

/-- The port after four data writes into it empty holds their four bits, and with the fifth they are the value. -/
theorem Mmc1.shifted_of_empty {r : Mmc1} (hs : r.shift = 0) (hc : r.count = 0) (v1 v2 v3 v4 v5 : Byte) :
    ((((r.dataWrite v1).dataWrite v2).dataWrite v3).dataWrite v4).shifted v5 4 =
      BitVec.ofNat 5 (v1.toNat % 2 + 2 * (v2.toNat % 2) + 4 * (v3.toNat % 2) + 8 * (v4.toNat % 2) +
        16 * (v5.toNat % 2)) := by
  simp only [← bit_zero_toNat, ← fiveBits_eq, Mmc1.dataWrite, Mmc1.shifted, hs, hc, Nat.reduceAdd]

/-- Settles O52: four writes fill the port, and the fifth commits. -/
theorem mmc1FiveWritesCommit : Obligations.Mmc1FiveWritesCommit := by
  unfold Obligations.Mmc1FiveWritesCommit
  intro c r a1 a2 a3 a4 a5 v1 v2 v3 v4 v5 hb hs hc ha hv d value
  simp only [List.forall_mem_cons] at ha hv
  obtain ⟨ha1, ha2, ha3, ha4, ha5, -⟩ := ha
  obtain ⟨hv1, hv2, hv3, hv4, hv5, -⟩ := hv
  let filled := (((r.dataWrite v1).dataWrite v2).dataWrite v3).dataWrite v4
  have hd : d = { c with
      board := .mmc1 (filled.commit a5 value)
      mirroring := if a5.toNat < 0xA000 then mirroringOf value else c.mirroring } := by
    have count (k : Nat) (hk : k < 4) : r.count + k < 4 := by omega
    simp only [d]
    rw [cpuWrite_mmc1_data hb ha1 hv1 (count 0 (by decide)), cpuWrite_mmc1_data rfl ha2 hv2 (count 1 (by decide)),
      cpuWrite_mmc1_data rfl ha3 hv3 (count 2 (by decide)), cpuWrite_mmc1_data rfl ha4 hv4 (count 3 (by decide)),
      cpuWrite_mmc1_commit rfl ha5 hv5 (by simp [Mmc1.dataWrite]), Mmc1.shifted_of_empty hs hc]
  rw [hd, mirroringOf_eq, Mmc1.commit_eq filled a5 value ha5]
  exact ⟨_, rfl, rfl, rfl, rfl, rfl, rfl, rfl, rfl, rfl, rfl, rfl, rfl, rfl⟩

/-! ## MMC1: the PRG windows (R85, R86) -/

theorem and_0x3FFF_toNat (a : Word) : (a &&& 0x3FFF).toNat = a.toNat % 0x4000 := by
  rw [BitVec.toNat_and]
  exact Nat.and_two_pow_sub_one_eq_mod a.toNat 14

/-- The PRG bank register's fields as numbers. -/
theorem prgBank_fields (x : BitVec 5) : (x &&& 0x0F).toNat = x.toNat % 16 ∧
    (x &&& 0x0E).toNat = x.toNat % 16 / 2 * 2 := by
  revert x; decide

theorem Mmc1.prgMode_toNat (r : Mmc1) : r.prgMode.toNat = r.control.toNat / 4 % 4 := by
  simp [Mmc1.prgMode, BitVec.extractLsb'_toNat, Nat.shiftRight_eq_div_pow]

theorem Mmc1.prgMode_eq_iff (r : Mmc1) (k : BitVec 2) : r.prgMode = k ↔ r.control.toNat / 4 % 4 = k.toNat := by
  rw [← BitVec.toNat_inj, prgMode_toNat]

/-- The PRG translation in numbers. -/
theorem Mmc1.prgIndex_eq (r : Mmc1) (c : CartConfig) (a : Word) : r.prgIndex c a =
    if r.control.toNat / 4 % 4 = 3 then
      if a.toNat < 0xC000 then (r.prgBank.toNat % 16 * 0x4000 + a.toNat % 0x4000) % (c.prgBanks16k * 0x4000)
      else (c.prgBanks16k - 1) * 0x4000 + a.toNat % 0x4000
    else if r.control.toNat / 4 % 4 = 2 then
      if a.toNat < 0xC000 then a.toNat % 0x4000
      else (r.prgBank.toNat % 16 * 0x4000 + a.toNat % 0x4000) % (c.prgBanks16k * 0x4000)
    else
      if a.toNat < 0xC000 then
        (r.prgBank.toNat % 16 / 2 * 2 * 0x4000 + a.toNat % 0x4000) % (c.prgBanks16k * 0x4000)
      else ((r.prgBank.toNat % 16 / 2 * 2 + 1) * 0x4000 + a.toNat % 0x4000) % (c.prgBanks16k * 0x4000) := by
  obtain ⟨bank, even⟩ := prgBank_fields r.prgBank
  simp only [Mmc1.prgIndex, r.prgMode_eq_iff, bank, even, and_0x3FFF_toNat]
  rfl

theorem Cart.cpuRead_mmc1_rom {c : Cart} {r : Mmc1} (hb : c.board = .mmc1 r) (a : Word) (h : 0x8000 ≤ a.toNat) :
    c.cpuRead a = c.prgRom.read (r.prgIndex c.config a) := by
  rw [c.cpuRead_rom a h]
  simp only [Cart.prgIndex, hb]

theorem Cart.cpuRead_mmc1_prgRam {c : Cart} {r : Mmc1} (hb : c.board = .mmc1 r) (a : Word) (h : 0x6000 ≤ a.toNat)
    (h' : a.toNat < 0x8000) : c.cpuRead a = c.prgRam.read (a.toNat - 0x6000) := by
  rw [c.cpuRead_prgRam a h h']
  simp only [Cart.prgRamPresent, hb, if_true]

/-- Settles O53: the translation in numbers, by PRG mode and window. -/
theorem mmc1TranslatesPrg : Obligations.Mmc1TranslatesPrg := by
  unfold Obligations.Mmc1TranslatesPrg
  intro c r a hb mode b o size lower upper
  have read (h : 0x8000 ≤ a.toNat) : c.cpuRead a = c.prgRom.read _ :=
    (Cart.cpuRead_mmc1_rom hb a h).trans (congrArg c.prgRom.read (r.prgIndex_eq c.config a))
  refine ⟨fun h hm => ?_, fun h hm => ?_, fun h hm => ?_, fun h hm => ?_, fun h hm => ?_, fun h hm => ?_,
    Cart.cpuRead_mmc1_prgRam hb a⟩
  · rw [read h.1, if_neg (show mode ≠ 3 by omega), if_neg (show mode ≠ 2 by omega), if_pos h.2]
  · rw [read (Nat.le_trans (by decide) h), if_neg (show mode ≠ 3 by omega), if_neg (show mode ≠ 2 by omega),
      if_neg (Nat.not_lt.2 h)]
  · rw [read h.1, if_neg (show mode ≠ 3 by omega), if_pos hm, if_pos h.2]
  · rw [read (Nat.le_trans (by decide) h), if_neg (show mode ≠ 3 by omega), if_pos hm, if_neg (Nat.not_lt.2 h)]
  · rw [read h.1, if_pos hm, if_pos h.2]
  · rw [read (Nat.le_trans (by decide) h), if_pos hm, if_neg (Nat.not_lt.2 h)]

/-! ## The PPU side (R76, R77, R88, R89) -/

theorem and_0x1FFF_toNat (a : Word) : (a &&& 0x1FFF).toNat = a.toNat % 0x2000 := by
  rw [BitVec.toNat_and]
  exact Nat.and_two_pow_sub_one_eq_mod a.toNat 13

theorem and_0x0FFF_toNat (a : Word) : (a &&& 0x0FFF).toNat = a.toNat % 0x1000 := by
  rw [BitVec.toNat_and]
  exact Nat.and_two_pow_sub_one_eq_mod a.toNat 12

theorem chrSize_eq (c : CartConfig) : chrSize c = if c.chrBanks8k = 0 then 0x2000 else c.chrBanks8k * 0x2000 := by
  simp only [chrSize, chrIsRam, beq_iff_eq]

theorem Cart.chrIndex_nrom {c : Cart} (hb : c.board = .nrom) (a : Word) :
    c.chrIndex a = a.toNat % 0x2000 % chrSize c.config := by
  simp only [Cart.chrIndex, hb, and_0x1FFF_toNat]

theorem Cart.chrIndex_mmc1 {c : Cart} {r : Mmc1} (hb : c.board = .mmc1 r) (a : Word) : c.chrIndex a =
    if r.control.getLsbD 4 then
      if a.toNat % 0x2000 < 0x1000 then (r.chrBank0.toNat * 0x1000 + a.toNat % 0x2000) % chrSize c.config
      else (r.chrBank1.toNat * 0x1000 + a.toNat % 0x2000 % 0x1000) % chrSize c.config
    else (r.chrBank0.toNat / 2 * 0x2000 + a.toNat % 0x2000) % chrSize c.config := by
  have low : a.toNat % 0x1000 = a.toNat % 0x2000 % 0x1000 := by omega
  have half : (r.chrBank0 >>> 1).toNat = r.chrBank0.toNat / 2 := by
    rw [BitVec.toNat_ushiftRight, Nat.shiftRight_eq_div_pow]
  simp only [Cart.chrIndex, hb, Mmc1.chrMode, and_0x1FFF_toNat, and_0x0FFF_toNat, half, low]

section
variable {c : Cart}

theorem Cart.ppuRead_chrRam (h : c.config.chrBanks8k = 0) (a : Word) : c.ppuRead a = c.chrRam.read (c.chrIndex a) :=
  if_pos (beq_iff_eq.2 h)

theorem Cart.ppuWrite_chrRam (h : c.config.chrBanks8k = 0) (a : Word) (v : Byte) :
    c.ppuWrite a v = { c with chrRam := c.chrRam.write (c.chrIndex a) v } :=
  if_pos (beq_iff_eq.2 h)

theorem Cart.ppuRead_chrRom (h : c.config.chrBanks8k ≠ 0) (a : Word) : c.ppuRead a = c.chrRom.read (c.chrIndex a) :=
  if_neg (mt beq_iff_eq.1 h)

theorem Cart.ppuWrite_chrRom (h : c.config.chrBanks8k ≠ 0) (a : Word) (v : Byte) : c.ppuWrite a v = c :=
  if_neg (mt beq_iff_eq.1 h)

theorem Cart.ppuRead_ppuWrite_chrRam (h : c.config.chrBanks8k = 0) (a b : Word) (v : Byte) :
    (c.ppuWrite a v).ppuRead b = if c.chrIndex b = c.chrIndex a then v else c.ppuRead b := by
  rw [Cart.ppuWrite_chrRam h, Cart.ppuRead_chrRam h b]
  have read := Cart.ppuRead_chrRam (c := { c with chrRam := c.chrRam.write (c.chrIndex a) v }) h b
  exact read.trans (Memory.read_write c.chrRam (c.chrIndex a) (c.chrIndex b) v)

end

/-- Settles O54: the index in numbers, and CHR-RAM as a memory. -/
theorem ppuSideReadsItsBank : Obligations.PpuSideReadsItsBank := by
  unfold Obligations.PpuSideReadsItsBank
  intro c a b v size low index
  have hi : c.chrIndex a = index := by
    have hsize : chrSize c.config = size := chrSize_eq c.config
    simp only [index]
    split
    next hb => rw [Cart.chrIndex_nrom hb, hsize]
    next r hb => rw [Cart.chrIndex_mmc1 hb, hsize]
  rw [← hi]
  exact ⟨rfl, fun h => ⟨Cart.ppuRead_chrRam h a, Cart.ppuRead_ppuWrite_chrRam h a b v⟩,
    fun h => ⟨Cart.ppuRead_chrRom h a, Cart.ppuWrite_chrRom h a v⟩⟩

/-! ## A step and the mapper (R87) -/

/-- The end of a step only adds transactions. -/
theorem endStep_bus (n : Nat) (s : State) : ∃ new, (endStep n s).out.bus = new ++ s.out.bus := by
  cases hd : s.dmaPage with
  | none => exact ⟨[], by rw [endStep_none n s hd]; rfl⟩
  | some page =>
    obtain ⟨new, hb, -⟩ := dmaCopy_bus 256 (wordOf page 0) s
    exact ⟨new, by rw [endStep_some n page s hd]; exact hb⟩

/-- Settles O56: a step is a chain of acts and its end, and what the acts wrote stands in the step's transactions. -/
theorem mapperChangesOnlyByWrites : Obligations.MapperChangesOnlyByWrites := by
  unfold Obligations.MapperChangesOnlyByWrites
  intro s t h hw
  obtain ⟨n, u, rfl, hu⟩ := acts_of_step h
  obtain ⟨late, hlate⟩ := endStep_bus n u
  obtain ⟨new, hnew, mapper⟩ := hu.bus
  have recorded (a : Word) (v : Byte) (hv : BusTxn.write a v ∈ new) : BusTxn.write a v ∈ (endStep n u).out.bus := by
    rw [hlate, hnew]
    exact List.mem_append_right _ (List.mem_append_left _ hv)
  simpa using mapper fun a v hv => hw a v (recorded a v hv)

end Sys2Proof.Machine

end

/-! The encoding family (spec/30_encoding.md): the decoder and the encoder undo each other (R100, R101, R103), and the 105
illegal bytes are refused (R106). -/

section

namespace Sys2Proof.Machine

/-! ## What a format reads -/

/-- The instruction a format makes of its operand bytes, low byte first (R100, R103). -/
inductive Reads : Format → Instr → List Byte → Prop where
  | one (i : Instr) : Reads (.one i) i []
  | two (mk : Byte → Instr) (b : Byte) : Reads (.two mk) (mk b) [b]
  | three (mk : Word → Instr) (w : Word) : Reads (.three mk) (mk w) [loByte w, hiByte w]

theorem reads_wordOf (mk : Word → Instr) (l h : Byte) : Reads (.three mk) (mk (wordOf h l)) [l, h] := by
  simpa [loByte_wordOf, hiByte_wordOf] using Reads.three mk (wordOf h l)

/-- Two bytes are enough for every format, whatever they are (R107). -/
theorem exists_reads (f : Format) (l h : Byte) (rest : List Byte) :
    ∃ i operand r, Reads f i operand ∧ l :: h :: rest = operand ++ r := by
  cases f with
  | one i => exact ⟨i, [], _, .one i, rfl⟩
  | two mk => exact ⟨mk l, [l], _, .two mk l, rfl⟩
  | three mk => exact ⟨mk (wordOf h l), [l, h], _, reads_wordOf mk l h, rfl⟩

/-- An instruction is encoded as an opcode byte that selects its format and the operand bytes the format reads. -/
theorem encode_eq_of_reads {op : Byte} {f : Format} {i : Instr} {operand : List Byte} (hf : formatOf op = some f)
    (hr : Reads f i operand) : encode i = op :: operand := by
  have agree := encodedAs_formatOf op
  rw [hf] at agree
  cases hr with
  | one => exact agree
  | two mk b => exact agree b
  | three mk w => exact agree w

/-- The opcode byte of an instruction's row selects a format that reads the instruction in its operand bytes. -/
theorem reads_operandBytes (i : Instr) : ∃ f, formatOf i.row.opcode = some f ∧ Reads f i i.operandBytes := by
  cases i <;> (dsimp only [Instr.row]; exact ⟨_, rfl, by constructor⟩)

/-! ## What the decoder answers -/

theorem decode_undocumented {op : Byte} (hf : formatOf op = none) (rest : List Byte) :
    decode (op :: rest) = .error (.undocumented op) := by
  simp only [decode, hf]

theorem decode_of_reads {op : Byte} {f : Format} {i : Instr} {operand : List Byte} (hf : formatOf op = some f)
    (hr : Reads f i operand) (rest : List Byte) : decode (op :: operand ++ rest) = .ok (i, rest) := by
  cases hr with
  | one => simp [decode, hf]
  | two mk b => simp [decode, hf]
  | three mk w => simp [decode, hf, wordOf_bytes]

/-- The decoder answers an instruction only where the first byte selects a format and the format reads the instruction in
the bytes that follow. -/
theorem reads_of_decode {bs : List Byte} {i : Instr} {rest : List Byte} (h : decode bs = .ok (i, rest)) :
    ∃ op f operand, formatOf op = some f ∧ Reads f i operand ∧ bs = op :: operand ++ rest := by
  cases bs with
  | nil => cases h
  | cons op tail =>
    simp only [decode] at h
    split at h
    next => cases h
    next hf => cases h; exact ⟨op, _, [], hf, .one i, rfl⟩
    next mk b r hf => cases h; exact ⟨op, _, [b], hf, .two mk b, rfl⟩
    next mk lo hi r hf => cases h; exact ⟨op, _, [lo, hi], hf, reads_wordOf mk lo hi, rfl⟩
    all_goals cases h -- the list ends before the instruction does (R101)

/-- Settles O5: the opcode byte selects the instruction's format, which reads the instruction in its operand bytes. -/
theorem decodeOfEncode : Obligations.DecodeOfEncode := by
  unfold Obligations.DecodeOfEncode
  intro i rest
  obtain ⟨f, hf, hr⟩ := reads_operandBytes i
  exact decode_of_reads hf hr rest

/-- Settles O6: the bytes are an opcode byte and what its format reads, which is the encoding. -/
theorem decodedBytesAreTheEncoding : Obligations.DecodedBytesAreTheEncoding := by
  unfold Obligations.DecodedBytesAreTheEncoding
  intro bs i rest h
  obtain ⟨op, f, operand, hf, hr, hbs⟩ := reads_of_decode h
  rw [hbs, encode_eq_of_reads hf hr]

/-! ## The illegal bytes -/

/-- The bytes with no format are the illegal ones, by the column of the table of R105 they stand in (R106). -/
theorem formatOf_eq_none_iff (op : Byte) : formatOf op = none ↔
    op &&& 0x0F = 3 ∨ op &&& 0x0F = 7 ∨ op &&& 0x0F = 0xB ∨ op &&& 0x0F = 0xF ∨ (op &&& 0x0F = 2 ∧ op ≠ 0xA2) ∨
      op ∈ ([0x04, 0x0C, 0x14, 0x1C, 0x34, 0x3C, 0x44, 0x54, 0x5C, 0x64, 0x74, 0x7C, 0x80, 0x9C, 0xD4, 0xDC, 0xF4,
        0xFC, 0x89, 0x9E, 0x1A, 0x3A, 0x5A, 0x7A, 0xDA, 0xFA] : List Byte) := by
  revert op; decide

/-- A byte with a format is the opcode of an instruction, and with two bytes after it decodes to one. -/
theorem decode_of_formatOf_ne_none {op : Byte} (h : formatOf op ≠ none) (b c : Byte) (rest : List Byte) :
    ∃ i : Instr, i.row.opcode = op ∧ ∃ r, decode (op :: b :: c :: rest) = .ok (i, r) := by
  obtain ⟨f, hf⟩ := Option.ne_none_iff_exists'.1 h
  obtain ⟨i, operand, r, hr, hbytes⟩ := exists_reads f b c rest
  have opcode : i.row.opcode = op := (List.cons.inj (encode_eq_of_reads hf hr)).1
  exact ⟨i, opcode, r, hbytes ▸ decode_of_reads hf hr r⟩

/-- Settles O7: a byte is illegal exactly when it has no format, and the fifteen words are decoded one by one. -/
theorem opcodeBytesDecodeAsTabled : Obligations.OpcodeBytesDecodeAsTabled := by
  unfold Obligations.OpcodeBytesDecodeAsTabled
  refine ⟨fun op rest => ⟨fun illegal => ?_, fun legal => ?_⟩, rfl, rfl, rfl, rfl, rfl, rfl, rfl, rfl, rfl, rfl, rfl,
    rfl, rfl, rfl, rfl⟩
  · exact decode_undocumented ((formatOf_eq_none_iff op).2 illegal) rest
  · exact decode_of_formatOf_ne_none (mt (formatOf_eq_none_iff op).1 legal) 0 0 rest

end Sys2Proof.Machine

end

/-! The addressing family (spec/40_addressing_modes.md): the fetch of an instruction (R120), the addressing modes as numbers
(R123 to R132), the page penalty (R134) and the count a step returns (R133). -/

section

namespace Sys2Proof.Machine

/-! ## The fetch (R120) -/

/-- Where the bytes from PC up decode, the fetch finds that instruction: it cannot find an illegal byte, which never decodes,
and the decoder reads what the fetch found. -/
theorem fetchInstr_of_decode {s : State} {i : Instr} {rest : List Byte} (h : decode (readBytes 3 s).1 = .ok (i, rest)) :
    ∃ t, fetchInstr s = .instr i t := by
  have found := fetchInstr_reads s
  cases hf : fetchInstr s with
  | bad op pc t =>
    rw [hf] at found
    obtain ⟨rfl, illegal, -, -⟩ := found
    have opcode : (fetch s).1 = (busRead s.pc s).1 := by rw [fetch_eq]
    rw [readBytes_succ, opcode, decode_undocumented illegal] at h
    cases h
  | instr j t =>
    rw [hf] at found
    obtain ⟨-, -, -, -, -, rest', hj⟩ := found
    rw [h] at hj
    cases hj
    exact ⟨t, rfl⟩

/-- Settles O8: the fetch finds the decoded instruction, by reading exactly its bytes. -/
theorem stepRunsTheDecodedInstruction : Obligations.StepRunsTheDecodedInstruction := by
  unfold Obligations.StepRunsTheDecodedInstruction
  intro s u i rest hb hd
  obtain ⟨t, hf⟩ := fetchInstr_of_decode hd
  have found := fetchInstr_reads u
  rw [hf] at found
  obtain ⟨_, rfl, bytes, rfl, pc, -⟩ := found
  exact ⟨by simp only [step, hb, hf], bytes, pc⟩

/-! ## The count of a step (R133, R309) -/

/-- Settles O19: a step is 2 to 7 cycles of its own, and an OAMDMA adds at most 514; neither the inputs nor an act touches
the counter before. -/
theorem stepReturnsItsCycleCount : Obligations.StepReturnsItsCycleCount := by
  unfold Obligations.StepReturnsItsCycleCount
  intro s t _ h
  rcases step_cases s with ⟨-, hf⟩ | ⟨op, pc, -, hf⟩ | ⟨own, u, -, hn, two_le, le_seven, hu⟩
  · rw [hf] at h; cases h
  · rw [hf] at h; cases h
  · rw [hn] at h
    cases h
    obtain ⟨n, returned, counted, own_le, le_dma⟩ := endStep_returned own u
    have before : u.cycles = s.cycles := by
      rcases hu with hu | ⟨hu, -⟩ <;> simpa using hu.cycles
    exact ⟨n, returned, by omega, by omega, by rw [counted, before]⟩

/-! ## Addresses as numbers -/

theorem loByte_toNat (w : Word) : (loByte w).toNat = w.toNat % 256 := BitVec.toNat_setWidth ..

theorem zext16_add_toNat (z x : Byte) : (zext16 (z + x)).toNat = (z.toNat + x.toNat) % 256 := by
  rw [zext16_toNat, BitVec.toNat_add]

theorem readPair_toNat (lo hi : Word) (s : State) :
    (readPair lo hi s).1.toNat = (busRead hi (busRead lo s).2).1.toNat * 256 + (busRead lo s).1.toNat :=
  wordOf_toNat _ _

/-- A pair of reads at addresses given as numbers. -/
theorem readPair_ofNat {lo hi : Word} {l h : Nat} (hl : lo.toNat = l) (hh : hi.toNat = h) (s : State) :
    readPair lo hi s = readPair (BitVec.ofNat 16 l) (BitVec.ofNat 16 h) s := by
  rw [← hl, ← hh, BitVec.ofNat_toNat, BitVec.ofNat_toNat, BitVec.setWidth_eq, BitVec.setWidth_eq]

/-- The second byte of a zero-page pointer wraps in page zero (R131, R132). -/
theorem zeroPagePointer_eq (z : Byte) (s : State) : zeroPagePointer z s =
    readPair (BitVec.ofNat 16 z.toNat) (BitVec.ofNat 16 ((z.toNat + 1) % 256)) s :=
  readPair_ofNat (zext16_toNat z) (zext16_add_toNat z 1) s

/-- The second byte of JMP's pointer wraps in the page of the first (R130). -/
theorem indirectPointer_eq (a : Word) (s : State) : indirectPointer a s =
    readPair (BitVec.ofNat 16 a.toNat) (BitVec.ofNat 16 (a.toNat / 256 * 256 + (a.toNat % 256 + 1) % 256)) s := by
  refine readPair_ofNat rfl ?_ s
  rw [wordOf_toNat, hiByte_toNat, BitVec.toNat_add, loByte_toNat]
  rfl

/-! ## The effective addresses that are read from memory -/

theorem effective_indirect (a : Word) (s : State) :
    effective (.indirect a) s = (⟨(indirectPointer a s).1, false⟩, (indirectPointer a s).2) := rfl

theorem effective_indirectX (z : Byte) (s : State) :
    effective (.indirectX z) s = (⟨(zeroPagePointer (z + s.x) s).1, false⟩, (zeroPagePointer (z + s.x) s).2) := rfl

/-- The pointer reads leave Y alone, so the index is Y as it was. -/
theorem effective_indirectY (z : Byte) (s : State) :
    effective (.indirectY z) s = (indexed (zeroPagePointer z s).1 s.y, (zeroPagePointer z s).2) := by
  have y : (zeroPagePointer z s).2.y = s.y := effective_y (.indirectY z) s
  rw [← y]
  rfl

/-! ## The page penalty (R134) -/

/-- The rows marked in the table's column are the indexed forms of the nine read instructions. -/
theorem pagePenalty_iff (i : Instr) : i.row.pagePenalty = true ↔
    i.row.mode ∈ [Mode.absoluteX, .absoluteY, .indirectY] ∧
      i.row.mnemonic ∈ [Mnemonic.lda, .ldx, .ldy, .and, .ora, .eor, .adc, .sbc, .cmp] := by
  cases i <;> (dsimp only [Instr.row]; decide)

theorem tableCycles_penalized {i : Instr} (h : i.row.pagePenalty = true) (crossed : Bool) :
    tableCycles i crossed = i.row.cycles + crossed.toNat := by
  rw [tableCycles, h]
  cases crossed <;> rfl

theorem tableCycles_not_penalized {i : Instr} (h : ¬ i.row.pagePenalty = true) (crossed : Bool) :
    tableCycles i crossed = i.row.cycles := by
  rw [tableCycles, Bool.eq_false_iff.2 h]
  rfl

/-- Settles O21: mode by mode, the address arithmetic as numbers; then the rows with the penalty. -/
theorem addressingModesGiveTheirNumbers : Obligations.AddressingModesGiveTheirNumbers := by
  unfold Obligations.AddressingModesGiveTheirNumbers
  refine ⟨fun s z a => ?_, fun i crossed => ?_⟩
  · intro plain indexedBy readAt
    have indexedNumbers (base : Word) (index : Byte) {n : Nat} (hn : base.toNat = n) :
        indexedBy (indexed base index) n index.toNat :=
      hn ▸ ⟨indexed_addr_toNat base index, indexed_crossed_iff base index⟩
    refine ⟨⟨zext16_toNat z, rfl, rfl⟩, ⟨zext16_add_toNat z s.x, rfl, rfl⟩, ⟨zext16_add_toNat z s.y, rfl, rfl⟩,
      ⟨rfl, rfl, rfl⟩, ⟨indexedNumbers a s.x rfl, rfl⟩, ⟨indexedNumbers a s.y rfl, rfl⟩, ?indirect, ?indirectX, ?indirectY,
      rfl, fun o => readOperand_eq o s⟩
    case indirect =>
      rw [effective_indirect, indirectPointer_eq]
      exact ⟨readPair_toNat .., rfl, rfl⟩
    case indirectX =>
      rw [effective_indirectX, zeroPagePointer_eq, BitVec.toNat_add]
      exact ⟨readPair_toNat .., rfl, rfl⟩
    case indirectY =>
      rw [effective_indirectY, zeroPagePointer_eq]
      exact ⟨indexedNumbers _ s.y (readPair_toNat ..), rfl⟩
  · rw [← pagePenalty_iff]
    exact ⟨fun h => tableCycles_penalized h crossed, fun h => tableCycles_not_penalized h crossed⟩

end Sys2Proof.Machine

end

/-! The load and store family (spec/41_load_store.md): the loads (R140 to R142) and the stores (R143 to R145) in every
mode. -/

section

namespace Sys2Proof.Machine

/-! ## The end of a step -/

/-- The end of a step keeps the latch and the lines, and leaves `dma_page` empty. -/
theorem interruptsKept_endStep (n : Nat) {s u : State} (hp : u.nmiPending = s.nmiPending) (hv : u.nmiPrev = s.nmiPrev)
    (hi : u.irqLine = s.irqLine) (hh : u.halted = s.halted) : InterruptsKept s (endStep n u) :=
  ⟨(endStep_nmiPending n u).trans hp, (endStep_nmiPrev n u).trans hv, (endStep_irqLine n u).trans hi,
    (endStep_halted n u).trans hh, endStep_dmaPage n u⟩

/-- The count is added whatever `dma_page` is set to. -/
theorem ended_addCycles (n : Nat) (d : Option Byte) (u : State) : Ended n u (addCycles n (u.setDmaPage d)) :=
  ⟨rfl, rfl, rfl⟩

/-- The end of a step with an OAMDMA (R63): its 513 or 514 cycles come on top, by the parity of the counter at the
instruction's own end. -/
theorem ended_endStep_oamDma (n : Nat) {page : Byte} {u : State} (h : u.dmaPage = some page) :
    Ended (n + 513 + (u.cycles + BitVec.ofNat 64 n).toNat % 2) (oamDma page u) (endStep n u) := by
  rw [endStep_some n page u h, dmaCycles, ← Nat.add_assoc]
  exact ended_addCycles _ none (oamDma page u)

/-! ## Reading an operand -/

/-- An instruction that reads an operand and then sets A, X, Y and P alone changes nothing else but what the reads use up
and record. -/
theorem readInstr_frame (n : Nat) (o : Operand) (a x y p : Byte) {s : State} (h : s.dmaPage = none) :
    let m := readOperand o s
    let t := endStep n { m.after with a := a, x := x, y := y, p := p }
    t.sp = s.sp ∧ t.pc = s.pc ∧ MemoryKept s t ∧ InterruptsKept s t ∧ Ended n m.after t := by
  intro m t
  have quiet : m.after.dmaPage = none := (readOperand_dmaPage o s).trans h
  refine ⟨by simp [t, m], by simp [t, m], memoryKept_of_eq (by simp [t, m]) (by simp [t, m]), ?_,
    ended_endStep n { m.after with a := a, x := x, y := y, p := p } quiet⟩
  exact interruptsKept_endStep n (readOperand_nmiPending o s) (readOperand_nmiPrev o s) (readOperand_irqLine o s)
    (readOperand_halted o s)

/-! ## Loads -/

/-- The machine once the load `r` has moved its operand to its register and set Z and N. -/
def loadRegister (r : Mnemonic) (m : Loaded) : State :=
  { m.after with
    a := if r = .lda then m.value else m.after.a
    x := if r = .ldx then m.value else m.after.x
    y := if r = .ldy then m.value else m.after.y
    p := setZN m.value m.after.p }

theorem exec_load {i : Instr} {o : Operand} (s : State) (ho : Operand.of i = some o)
    (hi : i.row.mnemonic = .lda ∨ i.row.mnemonic = .ldx ∨ i.row.mnemonic = .ldy) :
    exec i s = .next (endStep (tableCycles i (readOperand o s).crossed)
      (loadRegister i.row.mnemonic (readOperand o s))) := by
  rw [exec_shapeOf i o s ho, shapeOf]
  rcases hi with h | h | h <;> rw [h] <;> rfl

/-- Settles O22: the operand goes to one register and its Z and N to P; the rest is the frame of a read. -/
theorem loadsMoveTheOperand : Obligations.LoadsMoveTheOperand := by
  unfold Obligations.LoadsMoveTheOperand
  intro i o s hd ho hi m
  have flags : (endStep (tableCycles i m.crossed) (loadRegister i.row.mnemonic m)).p = setZN m.value s.p := by
    rw [endStep_p, loadRegister, readOperand_p]
  refine ⟨_, exec_load s ho hi, ?_, ?_, ?_, ?_, ?_, ?_, readInstr_frame _ o _ _ _ _ hd⟩
  · rw [endStep_a, loadRegister, readOperand_a]
  · rw [endStep_x, loadRegister, readOperand_x]
  · rw [endStep_y, loadRegister, readOperand_y]
  · rw [flags, flagZ_setZN]
  · rw [flags, flagN_setZN]
  · rw [flags, FlagsKept, setZN_and _ _ _ rfl rfl]

/-! ## Stores -/

/-- The register the store `r` writes. -/
def storedByte (r : Mnemonic) (s : State) : Byte := if r = .sta then s.a else if r = .stx then s.x else s.y

theorem exec_store {i : Instr} {o : Operand} (s : State) (ho : Operand.of i = some o)
    (hi : i.row.mnemonic = .sta ∨ i.row.mnemonic = .stx ∨ i.row.mnemonic = .sty) :
    exec i s = .next (endStep i.row.cycles
      (busWrite (effective o s).1.addr (storedByte i.row.mnemonic s) (effective o s).2)) := by
  rw [exec_shapeOf i o s ho, shapeOf]
  rcases hi with h | h | h <;> rw [h] <;> simp [storedByte, storeInstr_eq]

/-- A write does to RAM and the cartridge what these two alone decide. -/
theorem busWrite_memory_congr (a : Word) (v : Byte) {s t : State} (hr : t.ram = s.ram) (hc : t.cart = s.cart) :
    (busWrite a v t).ram = (busWrite a v s).ram ∧ (busWrite a v t).cart = (busWrite a v s).cart := by
  unfold busWrite writeTo
  cases writeTarget a <;> simp [hr, hc]

/-- A store after reads: they leave memory alone, so it shows as a store on the machine before them. -/
theorem storedAt_after_reads (n : Nat) (a : Word) (v : Byte) {s t : State} (hr : t.ram = s.ram) (hc : t.cart = s.cart) :
    StoredAt a v s (endStep n (busWrite a v t)) := by
  obtain ⟨ram, cart⟩ := busWrite_memory_congr a v hr hc
  exact storedAt_busWrite a v s _ ((endStep_ram n _).trans ram) ((endStep_cart n _).trans cart)

/-- Settles O23: the pointer reads leave everything but inputs and outputs alone, the write reaches memory alone but at
$4014, where it starts the OAMDMA that the end of the step then runs. -/
theorem storesWriteTheirRegister : Obligations.StoresWriteTheirRegister := by
  unfold Obligations.StoresWriteTheirRegister
  intro i o s hd ho hi e v u n ended
  have page : u.dmaPage = if e.1.addr = 0x4014 then some v else none := by
    rw [busWrite_dmaPage, effective_dmaPage, hd]
  have counter : u.cycles = s.cycles := by rw [busWrite_cycles, effective_cycles]
  refine ⟨endStep n u, exec_store s ho hi, ?_, ?_, ?_, ?_, ?_, ?_,
    storedAt_after_reads n _ v (effective_ram o s) (effective_cart o s), ?_, fun other => ?_, fun dma => ?_⟩
  · rw [endStep_a, busWrite_a, effective_a]
  · rw [endStep_x, busWrite_x, effective_x]
  · rw [endStep_y, busWrite_y, effective_y]
  · rw [endStep_sp, busWrite_sp, effective_sp]
  · rw [endStep_p, busWrite_p, effective_p]
  · rw [endStep_pc, busWrite_pc, effective_pc]
  · exact interruptsKept_endStep n (by simp [u, e]) (by simp [u, e]) (by simp [u, e]) (by simp [u, e])
  · exact ended_endStep n u (page.trans (if_neg other))
  · have run := ended_endStep_oamDma n (page.trans (if_pos dma))
    rwa [counter] at run

end Sys2Proof.Machine

end

/-! The transfer and stack family (spec/42_transfer_stack.md): the transfers (R150 to R155), the pushes (R156, R158),
the pulls (R157, R159), and the round trips of laws L1 and L2 (spec/95_test_vectors.md). -/

section

namespace Sys2Proof.Machine

/-! ## Instructions that write registers alone -/

/-- An instruction that sets registers and the record of its bus transactions alone: PC, memory and the interrupt state
stay, and its step ends with its own count. -/
theorem registers_frame (n : Nat) (a x y sp p : Byte) (o : Out) {s : State} (h : s.dmaPage = none) :
    let t := endStep n { s with a := a, x := x, y := y, sp := sp, p := p, out := o }
    t.pc = s.pc ∧ MemoryKept s t ∧ InterruptsKept s t ∧ Ended n { s with out := o } t :=
  ⟨endStep_pc n _, memoryKept_of_eq (endStep_ram n _) (endStep_cart n _), interruptsKept_endStep n rfl rfl rfl rfl,
    ended_endStep n { s with a := a, x := x, y := y, sp := sp, p := p, out := o } h⟩

/-- `SetZN` (spec/10_state.md R24): Z and N are those of the byte, the six other bits of P stay. -/
theorem flags_setZN (v p : Byte) :
    flagZ (setZN v p) = (v == 0) ∧ flagN (setZN v p) = v.getLsbD 7 ∧ FlagsKept 0x82 p (setZN v p) :=
  ⟨flagZ_setZN v p, flagN_setZN v p, setZN_and v p _ rfl rfl⟩

/-! ## The transfers -/

/-- What the five transfers that set flags share: `v` is the moved byte, and A, X and Y hold what they are given. -/
theorem transfer_frame (v a x y : Byte) {s : State} (h : s.dmaPage = none) :
    let t := endStep 2 { s with a := a, x := x, y := y, p := setZN v s.p }
    (t.a = a ∧ t.x = x ∧ t.y = y) ∧
      (flagZ t.p = (v == 0) ∧ flagN t.p = v.getLsbD 7 ∧ FlagsKept 0x82 s.p t.p) ∧
      t.sp = s.sp ∧ t.pc = s.pc ∧ MemoryKept s t ∧ InterruptsKept s t ∧ Ended 2 s t := by
  intro t
  have flags : t.p = setZN v s.p := endStep_p 2 _
  rw [flags]
  exact ⟨⟨endStep_a 2 _, endStep_x 2 _, endStep_y 2 _⟩, flags_setZN v s.p, endStep_sp 2 _,
    registers_frame 2 a x y s.sp (setZN v s.p) s.out h⟩

/-- Settles O24: each transfer is one register write, five of them with Z and N of the moved byte. -/
theorem transfersMoveSourceToDestination : Obligations.TransfersMoveSourceToDestination := by
  unfold Obligations.TransfersMoveSourceToDestination
  intro s hd
  refine ⟨?tax, ?txa, ?tay, ?tya, ?tsx, ?txs⟩
  case tax =>
    obtain ⟨⟨a, x, y⟩, ⟨z, n, kept⟩, frame⟩ := transfer_frame s.a s.a s.a s.y hd
    exact ⟨_, exec_tax s, x, z, n, kept, a, y, frame⟩
  case txa =>
    obtain ⟨⟨a, x, y⟩, ⟨z, n, kept⟩, frame⟩ := transfer_frame s.x s.x s.x s.y hd
    exact ⟨_, exec_txa s, a, z, n, kept, x, y, frame⟩
  case tay =>
    obtain ⟨⟨a, x, y⟩, ⟨z, n, kept⟩, frame⟩ := transfer_frame s.a s.a s.x s.a hd
    exact ⟨_, exec_tay s, y, z, n, kept, a, x, frame⟩
  case tya =>
    obtain ⟨⟨a, x, y⟩, ⟨z, n, kept⟩, frame⟩ := transfer_frame s.y s.y s.x s.y hd
    exact ⟨_, exec_tya s, a, z, n, kept, x, y, frame⟩
  case tsx =>
    obtain ⟨⟨a, x, y⟩, ⟨z, n, kept⟩, frame⟩ := transfer_frame s.sp s.a s.sp s.y hd
    exact ⟨_, exec_tsx s, x, z, n, kept, a, y, frame⟩
  case txs =>
    exact ⟨_, exec_txs s, endStep_sp 2 _, endStep_p 2 _, endStep_a 2 _, endStep_x 2 _, endStep_y 2 _,
      registers_frame 2 s.a s.x s.y s.x s.p s.out hd⟩

/-! ## The pushes -/

/-- PHA and PHP are one push each. -/
theorem exec_push {i : Instr} {v : Byte} {s : State} (h : (i, v) ∈ [(Instr.pha, s.a), (Instr.php, s.p ||| 0x30)]) :
    exec i s = .next (endStep 3 (push v s)) := by
  rcases List.mem_pair.1 h with e | e <;> obtain ⟨rfl, rfl⟩ := Prod.mk.inj e
  · exact exec_pha s
  · rw [← pushedStatus_true]
    exact exec_php s

/-- Settles O25: a push writes one RAM byte, SP and the record of the write. -/
theorem pushesStoreAtTheStack : Obligations.PushesStoreAtTheStack := by
  unfold Obligations.PushesStoreAtTheStack
  intro s i v hd hi
  have quiet : (push v s).dmaPage = none := (push_dmaPage v s).trans hd
  have ram : (endStep 3 (push v s)).ram = s.ram.write (0x100 + s.sp.toNat) v := (endStep_ram 3 _).trans (push_ram v s)
  have cart : (endStep 3 (push v s)).cart = s.cart := (endStep_cart 3 _).trans (push_cart v s)
  obtain ⟨cycles, env, out⟩ := ended_endStep 3 (push v s) quiet
  refine ⟨_, exec_push hi, ramStores_one ram cart, ?_, by simp, by simp, by simp, by simp, by simp, by simp,
    interruptsKept_endStep 3 (by simp) (by simp) (by simp) (by simp), ?_, ?_, ?_, ?_, ?_⟩
  · rw [peek_stackSlot, ram, Memory.read_write_same]
  · rw [cycles, push_cycles]
    rfl
  · rw [env, push_env]
  · rw [out, push_bus, stackSlot_eq]
  · rw [out, push_ports]
  · rw [out]

/-! ## The pulls -/

/-- The machine after a pull and the writes of A and P that follow it: SP, the record of the read, A and P alone are
new. -/
theorem pull_frame (a p : Byte) {s : State} (h : s.dmaPage = none) :
    let t := endStep 4 { (pull s).2 with a := a, p := p }
    t.sp = s.sp + 1 ∧ (t.a = a ∧ t.x = s.x ∧ t.y = s.y) ∧ t.p = p ∧ t.pc = s.pc ∧ MemoryKept s t ∧ InterruptsKept s t ∧
      t.cycles = s.cycles + 4 ∧ t.env = s.env ∧ t.out.bus = .read (stackSlot (s.sp + 1)) (pull s).1 :: s.out.bus ∧
      t.out.ports = s.out.ports ∧ t.out.returned = some 4 := by
  rw [stackSlot_eq, pull_eq]
  obtain ⟨pc, memory, interrupts, cycles, env, out⟩ := registers_frame 4 a s.x s.y (s.sp + 1) p _ h
  exact ⟨endStep_sp 4 _, ⟨endStep_a 4 _, endStep_x 4 _, endStep_y 4 _⟩, endStep_p 4 _, pc, memory, interrupts, cycles,
    env, (congrArg Out.bus out).trans rfl, (congrArg Out.ports out).trans rfl, (congrArg Out.returned out).trans rfl⟩

theorem peek_pulled (s : State) : peek (stackSlot (s.sp + 1)) s = some (pull s).1 := by
  rw [peek_stackSlot, pull_value]

theorem exec_pla_eq (s : State) : exec .pla s =
    .next (endStep 4 { (pull s).2 with a := (pull s).1, p := setZN (pull s).1 s.p }) := by
  rw [exec_pla, impliedInstr_eq, ← pull_p s]
  rfl

theorem exec_plp_eq (s : State) : exec .plp s =
    .next (endStep 4 { (pull s).2 with a := s.a, p := pulledStatus (pull s).1 }) := by
  rw [exec_plp, impliedInstr_eq, ← pull_a s]
  rfl

/-- Settles O26: both pull the byte above SP; PLA moves it to A with its Z and N, PLP makes it P. -/
theorem pullsReadTheStack : Obligations.PullsReadTheStack := by
  unfold Obligations.PullsReadTheStack
  intro s hd
  refine ⟨(pull s).1, peek_pulled s, ?pla, ?plp⟩
  case pla =>
    obtain ⟨sp, ⟨a, x, y⟩, p, frame⟩ := pull_frame (pull s).1 (setZN (pull s).1 s.p) hd
    obtain ⟨z, n, kept⟩ := flags_setZN (pull s).1 s.p
    rw [← p] at z n kept
    exact ⟨_, exec_pla_eq s, a, z, n, kept, sp, x, y, frame⟩
  case plp =>
    obtain ⟨sp, ⟨a, x, y⟩, p, frame⟩ := pull_frame s.a (pulledStatus (pull s).1) hd
    exact ⟨_, exec_plp_eq s, p, sp, a, x, y, frame⟩

/-! ## A push and a pull undo each other -/

/-- A pull finds the byte last pushed, and SP back where it was, whatever the machine did between that kept RAM and
SP. -/
theorem pull_after_push {v : Byte} {s t : State} (hr : t.ram = (push v s).ram) (hs : t.sp = (push v s).sp) :
    (pull t).1 = v ∧ (pull t).2.sp = s.sp := by
  rw [pull_value, pull_sp, hr, hs, ← pull_value, ← pull_sp]
  exact ⟨pull_push_value v s, pull_push_sp v s⟩

/-- Settles O27: the pull finds what was pushed, and the status pulled is the one pushed (the premise on bits 5 and
4). -/
theorem pushPullRoundTrips : Obligations.PushPullRoundTrips := by
  unfold Obligations.PushPullRoundTrips
  intro s _ fixed
  refine ⟨?statusTrip, ?accumulatorTrip⟩
  case statusTrip =>
    obtain ⟨value, sp⟩ := pull_after_push (v := pushedStatus true s.p) (s := s) (endStep_ram 3 _) (endStep_sp 3 _)
    refine ⟨_, _, exec_php s, exec_plp_eq _, ?_, (endStep_sp 4 _).trans sp, ?_⟩
    · rw [endStep_p]
      exact (congrArg pulledStatus value).trans (pulledStatus_pushedStatus true s.p fixed)
    · rw [endStep_a]
      exact (endStep_a 3 _).trans (push_a _ s)
  case accumulatorTrip =>
    have a : (endStep 3 (push s.a s)).a = s.a := by rw [endStep_a, push_a]
    obtain ⟨value, sp⟩ := pull_after_push (v := s.a) (s := s) (t := endStep 2 (taxEffect (endStep 3 (push s.a s))))
      ((endStep_ram 2 _).trans (endStep_ram 3 _)) ((endStep_sp 2 _).trans (endStep_sp 3 _))
    refine ⟨_, _, _, exec_pha s, exec_tax _, exec_pla_eq _, (endStep_a 4 _).trans value, ?_,
      (endStep_sp 4 _).trans sp, ?_, ?_⟩
    · rw [endStep_x]
      exact (pull_x _).trans ((endStep_x 2 _).trans a)
    · rw [endStep_p, flagZ_setZN]
      exact congrArg (· == 0) value
    · rw [endStep_p, flagN_setZN]
      exact congrArg (·.getLsbD 7) value

end Sys2Proof.Machine

end

/-! The logical family (spec/43_logical.md): AND, ORA, EOR (R170 to R172) and BIT (R173) in every mode. -/

section

namespace Sys2Proof.Machine

/-! ## Reading an operand -/

/-- An instruction that reads an operand and then sets A and P alone: the two hold what they are given, the other
registers stay, and the rest is the frame of a read. -/
theorem readInstr_accumulator (n : Nat) (o : Operand) (a p : Byte) {s : State} (h : s.dmaPage = none) :
    let m := readOperand o s
    let t := endStep n { m.after with a := a, p := p }
    t.p = p ∧ t.a = a ∧ t.x = s.x ∧ t.y = s.y ∧ t.sp = s.sp ∧ t.pc = s.pc ∧ MemoryKept s t ∧ InterruptsKept s t ∧
      Ended n m.after t :=
  ⟨endStep_p n _, endStep_a n _, (endStep_x n _).trans (readOperand_x o s), (endStep_y n _).trans (readOperand_y o s),
    readInstr_frame n o a (readOperand o s).after.x (readOperand o s).after.y p h⟩

/-! ## AND, ORA, EOR -/

/-- What the logical instruction `r` makes of A and its operand. -/
def logicResult (r : Mnemonic) (a v : Byte) : Byte :=
  if r = .and then a &&& v else if r = .ora then a ||| v else a ^^^ v

theorem exec_logic {i : Instr} {o : Operand} (s : State) (ho : Operand.of i = some o)
    (hi : i.row.mnemonic = .and ∨ i.row.mnemonic = .ora ∨ i.row.mnemonic = .eor) :
    let m := readOperand o s
    let r := logicResult i.row.mnemonic s.a m.value
    exec i s = .next (endStep (tableCycles i m.crossed) { m.after with a := r, p := setZN r s.p }) := by
  intro m
  rw [← readOperand_a o s, ← readOperand_p o s]
  rcases hi with h | h | h <;> rw [h]
  · exact exec_of_and i o s ho h
  · exact exec_of_ora i o s ho h
  · exact exec_of_eor i o s ho h

/-- Settles O28: the result goes to A and its Z and N to P; the rest is the frame of a read. -/
theorem logicCombinesIntoA : Obligations.LogicCombinesIntoA := by
  unfold Obligations.LogicCombinesIntoA
  intro i o s hd ho hi m r
  obtain ⟨p, a, rest⟩ := readInstr_accumulator (tableCycles i m.crossed) o r (setZN r s.p) hd
  obtain ⟨z, n, kept⟩ := flags_setZN r s.p
  rw [← p] at z n kept
  exact ⟨_, exec_logic s ho hi, a, z, n, kept, rest⟩

/-! ## BIT -/

/-- N and V are bits 7 and 6 of the operand, Z is that of `A & M`, the five other bits of P stay (R173). -/
theorem flags_bitFlags (a v p : Byte) :
    flagN (bitFlags a v p) = v.getLsbD 7 ∧ flagV (bitFlags a v p) = v.getLsbD 6 ∧
      flagZ (bitFlags a v p) = ((a &&& v) == 0) ∧ FlagsKept 0xC2 p (bitFlags a v p) :=
  ⟨flagN_bitFlags a v p, flagV_bitFlags a v p, flagZ_bitFlags a v p, bitFlags_and a v p _ rfl rfl rfl⟩

/-- BIT has no indexed mode, so its count is the table's whatever was crossed. -/
theorem tableCycles_bit {i : Instr} (h : i.row.mnemonic = .bit) (crossed : Bool) :
    tableCycles i crossed = tableCycles i false := by
  have unpenalized : ¬ i.row.pagePenalty = true := by
    rw [pagePenalty_iff, h]
    exact fun row => absurd row.2 (by decide)
  rw [tableCycles_not_penalized unpenalized, tableCycles_not_penalized unpenalized]

theorem exec_bit {i : Instr} {o : Operand} (s : State) (ho : Operand.of i = some o) (h : i.row.mnemonic = .bit) :
    let m := readOperand o s
    exec i s = .next (endStep (tableCycles i false) { m.after with a := s.a, p := bitFlags s.a m.value s.p }) := by
  intro m
  rw [← tableCycles_bit h m.crossed, ← readOperand_a o s, ← readOperand_p o s]
  exact exec_of_bit i o s ho h

/-- Settles O29: N, V and Z go to P and A stays; the rest is the frame of a read. -/
theorem bitCopiesOperandBits : Obligations.BitCopiesOperandBits := by
  unfold Obligations.BitCopiesOperandBits
  intro i o s hd ho hi m
  obtain ⟨p, rest⟩ := readInstr_accumulator (tableCycles i false) o s.a (bitFlags s.a m.value s.p) hd
  obtain ⟨n, v, z, kept⟩ := flags_bitFlags s.a m.value s.p
  rw [← p] at n v z kept
  exact ⟨_, exec_bit s ho hi, n, v, z, kept, rest⟩

end Sys2Proof.Machine

end

/-! The arithmetic family (spec/44_arithmetic.md): ADC (R180) and SBC (R181) in every mode over AddCore (R182), and
decision D29: neither reads the D flag. -/

section

namespace Sys2Proof.Machine

/-! ## AddCore (R182) -/

/-- The overflow formula is set exactly when the signed sum does not fit in a byte. -/
theorem addOverflow_iff (a v : Byte) (c : Bool) : addOverflow a v c = true ↔
    a.toInt + v.toInt + c.toNat < -128 ∨ 127 < a.toInt + v.toInt + c.toNat := by
  have ha := a.isLt
  have hv := v.isLt
  have hc := Bool.toNat_le c
  rw [addOverflow_eq, msb_eq, msb_eq, msb_eq, addResult_toNat, BitVec.toInt_eq_toNat_cond, BitVec.toInt_eq_toNat_cond]
  simp only [Bool.and_eq_true, Bool.not_eq_true', bne_eq_false_iff_eq, bne_iff_ne, ne_eq, decide_eq_decide]
  omega

/-- P after AddCore: C, V, Z and N are written, the four other bits stay. -/
theorem flags_addFlags (a v p : Byte) :
    flagC (addFlags a v p) = addCarry a v (flagC p) ∧ flagV (addFlags a v p) = addOverflow a v (flagC p) ∧
      flagZ (addFlags a v p) = (addResult a v (flagC p) == 0) ∧
      flagN (addFlags a v p) = (addResult a v (flagC p)).getLsbD 7 ∧ FlagsKept 0xC3 p (addFlags a v p) :=
  ⟨flagC_addFlags a v p, flagV_addFlags a v p, flagZ_addFlags a v p, flagN_addFlags a v p,
    addFlags_and a v p _ rfl rfl rfl rfl⟩

/-- An instruction that reads an operand and then adds `v` by AddCore: the sum is in A, its carry and overflow in C and
V, Z and N are those of A, and nothing else changes. -/
theorem addCore_afterRead (n : Nat) (o : Operand) (v : Byte) {s : State} (h : s.dmaPage = none) :
    let m := readOperand o s
    let t := endStep n (addCore v m.after)
    t.a = addResult s.a v (flagC s.p) ∧ flagC t.p = addCarry s.a v (flagC s.p) ∧
      flagV t.p = addOverflow s.a v (flagC s.p) ∧ flagZ t.p = (t.a == 0) ∧ flagN t.p = t.a.getLsbD 7 ∧
      FlagsKept 0xC3 s.p t.p ∧ t.x = s.x ∧ t.y = s.y ∧ t.sp = s.sp ∧ t.pc = s.pc ∧ MemoryKept s t ∧
      InterruptsKept s t ∧ Ended n m.after t := by
  intro m
  have added : addCore v m.after =
      { m.after with a := addResult s.a v (flagC s.p), p := addFlags s.a v s.p } := by
    rw [← readOperand_a o s, ← readOperand_p o s]
    rfl
  rw [added]
  intro t
  obtain ⟨p, a, rest⟩ := readInstr_accumulator n o (addResult s.a v (flagC s.p)) (addFlags s.a v s.p) h
  obtain ⟨carry, overflow, zero, negative, kept⟩ := flags_addFlags s.a v s.p
  rw [← p] at carry overflow zero negative kept
  exact ⟨a, carry, overflow, zero.trans (congrArg (· == 0) a.symm), negative.trans (congrArg (·.getLsbD 7) a.symm), kept,
    rest⟩

/-! ## ADC (R180) -/

theorem exec_adc {i : Instr} {o : Operand} (s : State) (ho : Operand.of i = some o) (h : i.row.mnemonic = .adc) :
    let m := readOperand o s
    exec i s = .next (endStep (tableCycles i m.crossed) (addCore m.value m.after)) :=
  exec_of_adc i o s ho h

/-- Settles O30: AddCore of the operand, its sum, carry and overflow read as numbers. -/
theorem adcAddsWithCarry : Obligations.AdcAddsWithCarry := by
  unfold Obligations.AdcAddsWithCarry
  intro i o s hd ho hi m sum signed
  obtain ⟨a, c, v, rest⟩ := addCore_afterRead (tableCycles i m.crossed) o m.value hd
  refine ⟨_, exec_adc s ho hi, ?_, ?_, ?_, ?_, rest⟩
  · rw [a, addResult_toNat]
  · rw [c, addCarry_eq, decide_eq_true_iff]
  · rw [v, addOverflow_iff]
  · rw [v, a]
    rfl

/-! ## SBC (R181) -/

/-- "Inverse operand for SBC": the complement of the operand, as a number. -/
theorem xor_0xFF_toNat (v : Byte) : (v ^^^ 0xFF).toNat = 255 - v.toNat :=
  (congrArg BitVec.toNat (BitVec.xor_allOnes (x := v))).trans BitVec.toNat_not

theorem xor_0xFF_toInt (v : Byte) : (v ^^^ 0xFF).toInt = -1 - v.toInt := by
  have hv := v.isLt
  rw [BitVec.toInt_eq_toNat_cond, BitVec.toInt_eq_toNat_cond, xor_0xFF_toNat]
  omega

theorem exec_sbc {i : Instr} {o : Operand} (s : State) (ho : Operand.of i = some o) (h : i.row.mnemonic = .sbc) :
    let m := readOperand o s
    exec i s = .next (endStep (tableCycles i m.crossed) (addCore (m.value ^^^ 0xFF) m.after)) :=
  exec_of_sbc i o s ho h

/-- Settles O31: AddCore of the operand's complement, which is -1 less the operand, so that the carry is the inverted
borrow. -/
theorem sbcSubtractsWithBorrow : Obligations.SbcSubtractsWithBorrow := by
  unfold Obligations.SbcSubtractsWithBorrow
  intro i o s hd ho hi m borrow signed
  have hm := m.value.isLt
  have hc := Bool.toNat_le (flagC s.p)
  obtain ⟨a, c, v, rest⟩ := addCore_afterRead (tableCycles i m.crossed) o (m.value ^^^ 0xFF) hd
  refine ⟨_, exec_sbc s ho hi, ?_, ?_, ?_, rest⟩
  · rw [a, addResult_toNat, xor_0xFF_toNat]
    omega
  · rw [c, addCarry_eq, decide_eq_true_iff, xor_0xFF_toNat]
    omega
  · rw [v, addOverflow_iff, xor_0xFF_toInt]
    omega

/-! ## What a write to P commutes with

Reading the bus, computing an address and the end of a step neither read P nor write it. -/

theorem busRead_setP (a : Word) (q : Byte) (s : State) :
    busRead a (s.setP q) = ((busRead a s).1, (busRead a s).2.setP q) := by
  simp only [busRead, readFrom]
  cases readTarget a <;> rfl

theorem readPair_setP (lo hi : Word) (q : Byte) (s : State) :
    readPair lo hi (s.setP q) = ((readPair lo hi s).1, (readPair lo hi s).2.setP q) := by
  simp only [readPair_eq, busRead_setP]

theorem effective_setP (o : Operand) (q : Byte) (s : State) :
    effective o (s.setP q) = ((effective o s).1, (effective o s).2.setP q) := by
  cases o with
  | indirect a => simp only [effective, indirectPointer, readPair_setP]
  | indirectX z => simp only [effective, zeroPagePointer, State.setP_x, readPair_setP]
  | indirectY z => simp only [effective, zeroPagePointer, State.setP_y, readPair_setP]
  | _ => rfl

theorem readOperand_setP (o : Operand) (q : Byte) (s : State) :
    readOperand o (s.setP q) = { readOperand o s with after := (readOperand o s).after.setP q } := by
  cases o with
  | immediate v => rfl
  | _ => simp only [readOperand, effective_setP, busRead_setP]

theorem dmaCopy_setP (n : Nat) (q : Byte) (a : Word) (s : State) :
    dmaCopy n a (s.setP q) = (dmaCopy n a s).setP q := by
  induction n generalizing a s with
  | zero => rfl
  | succ n ih =>
    simp only [dmaCopy, busRead_setP]
    exact ih (a + 1) ((busRead a s).2.logPort (.ppuWrite 4 (busRead a s).1))

theorem oamDma_setP (page q : Byte) (s : State) : oamDma page (s.setP q) = (oamDma page s).setP q :=
  dmaCopy_setP 256 q (wordOf page 0) s

theorem addCycles_setP (n : Nat) (q : Byte) (s : State) : addCycles n (s.setP q) = (addCycles n s).setP q := rfl

theorem endStep_setP (n : Nat) (q : Byte) (s : State) : endStep n (s.setP q) = (endStep n s).setP q := by
  cases h : s.dmaPage with
  | none =>
    rw [endStep_none n s h, endStep_none n (s.setP q) h, addCycles_setP]
  | some page =>
    rw [endStep_some n page s h, endStep_some n page (s.setP q) h, oamDma_setP]
    exact addCycles_setP _ q ((oamDma page s).setDmaPage none)

/-! ## The D flag (decision D29) -/

theorem setBit_comm {i j : Nat} (hi : i < 8) (hj : j < 8) (hij : i ≠ j) (b c : Bool) (p : Byte) :
    setBit i b (setBit j c p) = setBit j c (setBit i b p) := by
  apply BitVec.eq_of_getLsbD_eq
  intro k _
  rw [setBit_getLsbD _ _ _ _ hi, setBit_getLsbD _ _ _ _ hj, setBit_getLsbD _ _ _ _ hj, setBit_getLsbD _ _ _ _ hi]
  by_cases h : k = i
  · rw [if_pos h, if_neg (h ▸ hij), if_pos h]
  · rw [if_neg h, if_neg h]

/-- Writing another flag commutes with writing D. -/
theorem setBit_setD {i : Nat} (h : i < 8) (hD : i ≠ 3) (b d : Bool) (p : Byte) :
    setBit i b (setD d p) = setD d (setBit i b p) := setBit_comm h (by decide) hD b d p

theorem setZN_setD (v : Byte) (d : Bool) (p : Byte) : setZN v (setD d p) = setD d (setZN v p) := by
  simp only [setZN, setZ, setN]
  rw [setBit_setD (by decide) (by decide), setBit_setD (by decide) (by decide)]

theorem addFlags_setD (a v : Byte) (d : Bool) (p : Byte) : addFlags a v (setD d p) = setD d (addFlags a v p) := by
  simp only [addFlags, flagC_setD, setC, setV]
  rw [setBit_setD (by decide) (by decide), setBit_setD (by decide) (by decide), setZN_setD]

/-- AddCore carries the D bit through and does not read it. -/
theorem addCore_setD (v : Byte) (d : Bool) (s : State) :
    addCore v (s.setP (setD d s.p)) = (addCore v s).setP (setD d (addCore v s).p) := by
  have sum : addResult s.a v (flagC (setD d s.p)) = addResult s.a v (flagC s.p) := by rw [flagC_setD]
  have flags : addFlags s.a v (setD d s.p) = setD d (addFlags s.a v s.p) := addFlags_setD s.a v d s.p
  simp only [addCore, State.setP_a, State.setP_p, sum, flags]
  rfl

/-- An instruction that reads an operand ignores D where what it does with the operand does. -/
theorem readInstr_setD (o : Operand) (base : Nat) (penalized : Bool) {f : Byte → State → State} {d : Bool}
    (hf : ∀ v s, f v (s.setP (setD d s.p)) = (f v s).setP (setD d (f v s).p)) (s : State) :
    ∃ t u, readInstr o base penalized f s = .next t ∧ readInstr o base penalized f (s.setP (setD d s.p)) = .next u ∧
      u = t.setP (setD d t.p) := by
  refine ⟨_, _, rfl, rfl, ?_⟩
  rw [readOperand_setP, ← readOperand_p o s, hf, endStep_setP, endStep_p]

/-- Row by row, ADC and SBC have no form without an operand. -/
theorem exists_operand_of_arithmetic {i : Instr} (h : i.row.mnemonic = .adc ∨ i.row.mnemonic = .sbc) :
    ∃ o, Operand.of i = some o := by
  have rows : (!(i.row.mnemonic == .adc || i.row.mnemonic == .sbc) || (Operand.of i).isSome) = true := by
    cases i <;> rfl
  rw [Bool.or_eq_true, Bool.not_eq_true', Bool.or_eq_false_iff, beq_eq_false_iff_ne, beq_eq_false_iff_ne] at rows
  rcases rows with ⟨notAdc, notSbc⟩ | found
  · exact absurd h (not_or.2 ⟨notAdc, notSbc⟩)
  · exact Option.isSome_iff_exists.1 found

/-- Settles O32: both are reads of an operand into AddCore, which does not read D. -/
theorem arithmeticIgnoresDecimal : Obligations.ArithmeticIgnoresDecimal := by
  unfold Obligations.ArithmeticIgnoresDecimal
  intro i s d hi
  obtain ⟨o, ho⟩ := exists_operand_of_arithmetic hi
  rcases hi with hi | hi
  · rw [exec_of_adc i o _ ho hi, exec_of_adc i o _ ho hi]
    exact readInstr_setD o _ _ (fun v => addCore_setD v d) s
  · rw [exec_of_sbc i o _ ho hi, exec_of_sbc i o _ ho hi]
    exact readInstr_setD o _ _ (fun v => addCore_setD (v ^^^ 0xFF) d) s

end Sys2Proof.Machine

end

/-! The shift family (spec/45_shifts.md): ASL, LSR, ROL, ROR (R190 to R193) on A and on memory, and with them INC and DEC
on memory (spec/46_compare_incdec.md R203, R204), which are read, modified and written the same way. -/

section

namespace Sys2Proof.Machine

/-! ## The operations as numbers -/

theorem aslOp_eq (v p : Byte) : aslOp v p =
    (BitVec.ofNat 8 (2 * v.toNat), shiftFlags (v.getLsbD 7) (BitVec.ofNat 8 (2 * v.toNat)) p) := by
  rw [aslOp, shiftLeft_ofNat]

theorem lsrOp_eq (v p : Byte) : lsrOp v p =
    (BitVec.ofNat 8 (v.toNat / 2), shiftFlags (v.getLsbD 0) (BitVec.ofNat 8 (v.toNat / 2)) p) := by
  rw [lsrOp, shiftRight_ofNat]

theorem rolOp_eq (v p : Byte) : rolOp v p =
    (BitVec.ofNat 8 (2 * v.toNat + (flagC p).toNat),
      shiftFlags (v.getLsbD 7) (BitVec.ofNat 8 (2 * v.toNat + (flagC p).toNat)) p) := by
  rw [rolOp, rolResult_ofNat]

theorem rorOp_eq (v p : Byte) : rorOp v p =
    (BitVec.ofNat 8 (v.toNat / 2 + 128 * (flagC p).toNat),
      shiftFlags (v.getLsbD 0) (BitVec.ofNat 8 (v.toNat / 2 + 128 * (flagC p).toNat)) p) := by
  rw [rorOp, rorResult_ofNat]

theorem setC_flagC (p : Byte) : setC (flagC p) p = p := by
  apply BitVec.eq_of_getLsbD_eq
  intro j _
  rw [setC, setBit_getLsbD 0 j _ _ (by decide)]
  split
  next zero => rw [zero, flagC]
  next => rfl

/-- INC leaves C alone: it sets P as a shift would that moved C's own value out. -/
theorem incOp_eq (v p : Byte) : incOp v p = (v + 1, shiftFlags (flagC p) (v + 1) p) := by
  rw [incOp, shiftFlags, setC_flagC]

theorem decOp_eq (v p : Byte) : decOp v p = (v - 1, shiftFlags (flagC p) (v - 1) p) := by
  rw [decOp, shiftFlags, setC_flagC]

/-- P after a shift: C is the bit shifted out, Z and N are those of the result, the five other bits stay. -/
theorem flags_shiftFlags (out : Bool) (r p : Byte) :
    flagC (shiftFlags out r p) = out ∧ flagZ (shiftFlags out r p) = (r == 0) ∧
      flagN (shiftFlags out r p) = r.getLsbD 7 ∧ FlagsKept 0x83 p (shiftFlags out r p) :=
  ⟨flagC_shiftFlags out r p, flagZ_shiftFlags out r p, flagN_shiftFlags out r p, shiftFlags_and out r p _ rfl rfl rfl⟩

/-! ## On the accumulator -/

theorem accInstr_of_shift {f : Byte → Byte → Byte × Byte} {s : State} {r : Byte} {out : Bool}
    (hf : f s.a s.p = (r, shiftFlags out r s.p)) :
    accInstr f s = .next (endStep 2 { s with a := r, p := shiftFlags out r s.p }) := by
  rw [accInstr_eq, hf]
  rfl

/-- Settles O34: each is the accumulator shape over its operation, which writes A and P alone. -/
theorem accumulatorShifts : Obligations.AccumulatorShifts := by
  unfold Obligations.AccumulatorShifts
  intro s i r out hd hi
  have run : exec i s = .next (endStep 2 { s with a := r, p := shiftFlags out r s.p }) := by
    simp only [List.mem_cons, List.not_mem_nil, or_false, Prod.mk.injEq] at hi
    rcases hi with ⟨rfl, rfl, rfl⟩ | ⟨rfl, rfl, rfl⟩ | ⟨rfl, rfl, rfl⟩ | ⟨rfl, rfl, rfl⟩
    · exact (exec_aslAcc s).trans (accInstr_of_shift (aslOp_eq s.a s.p))
    · exact (exec_lsrAcc s).trans (accInstr_of_shift (lsrOp_eq s.a s.p))
    · exact (exec_rolAcc s).trans (accInstr_of_shift (rolOp_eq s.a s.p))
    · exact (exec_rorAcc s).trans (accInstr_of_shift (rorOp_eq s.a s.p))
  have p : (endStep 2 { s with a := r, p := shiftFlags out r s.p }).p = shiftFlags out r s.p := endStep_p 2 _
  obtain ⟨c, z, n, kept⟩ := flags_shiftFlags out r s.p
  rw [← p] at c z n kept
  exact ⟨_, run, endStep_a 2 _, c, z, n, kept, endStep_x 2 _, endStep_y 2 _, endStep_sp 2 _,
    registers_frame 2 r s.x s.y s.sp (shiftFlags out r s.p) s.out hd⟩

/-! ## On memory -/

/-- The byte a read-modify-write instruction writes back for the byte `v` it read (R190 to R193, R203, R204). -/
def modifiedByte (m : Mnemonic) (v p : Byte) : Byte :=
  if m = .asl then BitVec.ofNat 8 (2 * v.toNat)
  else if m = .lsr then BitVec.ofNat 8 (v.toNat / 2)
  else if m = .rol then BitVec.ofNat 8 (2 * v.toNat + (flagC p).toNat)
  else if m = .ror then BitVec.ofNat 8 (v.toNat / 2 + 128 * (flagC p).toNat)
  else if m = .inc then v + 1 else v - 1

/-- C after it: the bit shifted out, or for INC and DEC as it was. -/
def modifiedCarry (m : Mnemonic) (v p : Byte) : Bool :=
  if m = .asl ∨ m = .rol then v.getLsbD 7
  else if m = .lsr ∨ m = .ror then v.getLsbD 0 else flagC p

theorem rmwInstr_of_shift {f : Byte → Byte → Byte × Byte} {o : Operand} (base : Nat) {s : State} {r : Byte} {out : Bool}
    (hf : f (busRead (effective o s).1.addr (effective o s).2).1 s.p = (r, shiftFlags out r s.p)) :
    rmwInstr o base f s = .next ((endStep base
      (busWrite (effective o s).1.addr r (busRead (effective o s).1.addr (effective o s).2).2)).setP
        (shiftFlags out r s.p)) := by
  rw [rmwInstr_eq, hf, endStep_setP]

/-- The six read-modify-write instructions in every memory mode: one write of the modified byte, and P. -/
theorem exec_readModifyWrite {i : Instr} {o : Operand} (s : State) (ho : Operand.of i = some o)
    (hi : i.row.mnemonic = .asl ∨ i.row.mnemonic = .lsr ∨ i.row.mnemonic = .rol ∨ i.row.mnemonic = .ror ∨
      i.row.mnemonic = .inc ∨ i.row.mnemonic = .dec) :
    let e := effective o s
    let v := (busRead e.1.addr e.2).1
    let r := modifiedByte i.row.mnemonic v s.p
    exec i s = .next ((endStep i.row.cycles (busWrite e.1.addr r (busRead e.1.addr e.2).2)).setP
      (shiftFlags (modifiedCarry i.row.mnemonic v s.p) r s.p)) := by
  intro e v
  rcases hi with h | h | h | h | h | h <;> rw [h]
  · exact (exec_of_asl i o s ho h).trans (rmwInstr_of_shift _ (aslOp_eq v s.p))
  · exact (exec_of_lsr i o s ho h).trans (rmwInstr_of_shift _ (lsrOp_eq v s.p))
  · exact (exec_of_rol i o s ho h).trans (rmwInstr_of_shift _ (rolOp_eq v s.p))
  · exact (exec_of_ror i o s ho h).trans (rmwInstr_of_shift _ (rorOp_eq v s.p))
  · exact (exec_of_inc i o s ho h).trans (rmwInstr_of_shift _ (incOp_eq v s.p))
  · exact (exec_of_dec i o s ho h).trans (rmwInstr_of_shift _ (decOp_eq v s.p))

/-- Settles O35: the reads leave everything but inputs and outputs alone, the write reaches memory alone but at $4014,
where it starts the OAMDMA that the end of the step then runs; P, which no bus access reads, is written beside. -/
theorem readModifyWriteUpdatesMemory : Obligations.ReadModifyWriteUpdatesMemory := by
  unfold Obligations.ReadModifyWriteUpdatesMemory
  intro i o s hd ho hi e v c r carry u n ended
  obtain ⟨shiftedOut, zero, negative, kept⟩ := flags_shiftFlags carry r s.p
  have page : u.dmaPage = if e.1.addr = 0x4014 then some r else none := by
    rw [busWrite_dmaPage, busRead_dmaPage, effective_dmaPage, hd]
  have counter : u.cycles = s.cycles := by rw [busWrite_cycles, busRead_cycles, effective_cycles]
  have stored : StoredAt e.1.addr r s (endStep n u) :=
    storedAt_after_reads n _ r (by rw [busRead_ram, effective_ram]) (by rw [busRead_cart, effective_cart])
  have interrupts : InterruptsKept s (endStep n u) :=
    interruptsKept_endStep n (by simp [u, e]) (by simp [u, e]) (by simp [u, e]) (by simp [u, e])
  refine ⟨(endStep n u).setP (shiftFlags carry r s.p), exec_readModifyWrite s ho hi, stored, shiftedOut, zero,
    negative, kept, ?_, ?_, ?_, ?_, ?_, interrupts, fun other => ?_, fun dma => ?_⟩
  · rw [State.setP_a, endStep_a, busWrite_a, busRead_a, effective_a]
  · rw [State.setP_x, endStep_x, busWrite_x, busRead_x, effective_x]
  · rw [State.setP_y, endStep_y, busWrite_y, busRead_y, effective_y]
  · rw [State.setP_sp, endStep_sp, busWrite_sp, busRead_sp, effective_sp]
  · rw [State.setP_pc, endStep_pc, busWrite_pc, busRead_pc, effective_pc]
  · exact ended_endStep n u (page.trans (if_neg other))
  · have run := ended_endStep_oamDma n (page.trans (if_pos dma))
    rwa [counter] at run

end Sys2Proof.Machine

end

/-! The compare and count family (spec/46_compare_incdec.md): CMP, CPX, CPY (R200 to R202) in every mode, and INX, INY,
DEX, DEY (R205 to R208). INC and DEC (R203, R204) stand with the shifts on memory. -/

section

namespace Sys2Proof.Machine

/-! ## Compares -/

/-- P after a compare (R200): C is the unsigned order, Z is equality, N is bit 7 of the difference, the five other bits
stay. -/
theorem flags_compareFlags (r v p : Byte) :
    (flagC (compareFlags r v p) = true ↔ v.toNat ≤ r.toNat) ∧ (flagZ (compareFlags r v p) = true ↔ r = v) ∧
      flagN (compareFlags r v p) = (r - v).getLsbD 7 ∧ FlagsKept 0x83 p (compareFlags r v p) := by
  refine ⟨?order, ?equality, flagN_compareFlags r v p, compareFlags_and r v p _ rfl rfl rfl⟩
  case order => rw [flagC_compareFlags, decide_eq_true_iff, BitVec.le_def]
  case equality => rw [flagZ_compareFlags, beq_iff_eq]

/-- The register the compare `r` holds against its operand. -/
def comparedRegister (r : Mnemonic) (s : State) : Byte := if r = .cmp then s.a else if r = .cpx then s.x else s.y

theorem exec_compare {i : Instr} {o : Operand} (s : State) (ho : Operand.of i = some o)
    (hi : i.row.mnemonic = .cmp ∨ i.row.mnemonic = .cpx ∨ i.row.mnemonic = .cpy) :
    let m := readOperand o s
    exec i s = .next (endStep (tableCycles i m.crossed)
      { m.after with a := s.a, p := compareFlags (comparedRegister i.row.mnemonic s) m.value s.p }) := by
  intro m
  have sameRegister : comparedRegister i.row.mnemonic s = comparedRegister i.row.mnemonic m.after := by
    rw [comparedRegister, comparedRegister, readOperand_a, readOperand_x, readOperand_y]
  rw [sameRegister, ← readOperand_a o s, ← readOperand_p o s]
  rcases hi with h | h | h <;> rw [h]
  · exact exec_of_cmp i o s ho h
  · exact exec_of_cpx i o s ho h
  · exact exec_of_cpy i o s ho h

/-- Settles O33: C, Z and N go to P and every register stays; the rest is the frame of a read. -/
theorem comparesSetFlagsOnly : Obligations.ComparesSetFlagsOnly := by
  unfold Obligations.ComparesSetFlagsOnly
  intro i o s hd ho hi m r
  obtain ⟨p, rest⟩ := readInstr_accumulator (tableCycles i m.crossed) o s.a (compareFlags r m.value s.p) hd
  obtain ⟨c, z, n, kept⟩ := flags_compareFlags r m.value s.p
  rw [← p] at c z n kept
  exact ⟨_, exec_compare s ho hi, c, z, n, kept, rest⟩

/-! ## Counting in X and Y -/

/-- Settles O36: each writes X or Y, and Z and N of the counted byte, as a transfer does. -/
theorem indexRegistersCount : Obligations.IndexRegistersCount := by
  unfold Obligations.IndexRegistersCount
  intro s hd i x y r hi
  have run : exec i s = .next (endStep 2 { s with a := s.a, x := x, y := y, p := setZN r s.p }) := by
    simp only [List.mem_cons, List.not_mem_nil, or_false, Prod.mk.injEq] at hi
    rcases hi with ⟨rfl, rfl, rfl, rfl⟩ | ⟨rfl, rfl, rfl, rfl⟩ | ⟨rfl, rfl, rfl, rfl⟩ | ⟨rfl, rfl, rfl, rfl⟩
    · exact exec_inx s
    · exact exec_iny s
    · exact exec_dex s
    · exact exec_dey s
  obtain ⟨⟨keptA, newX, newY⟩, ⟨z, n, kept⟩, frame⟩ := transfer_frame r s.a x y hd
  exact ⟨_, run, newX, newY, z, n, kept, keptA, frame⟩

end Sys2Proof.Machine

end

/-! The branch and jump family (spec/47_branch_jump.md): the eight branches (R210 to R218), JMP (R219, R220), JSR and RTS
(R221, R222). -/

section

namespace Sys2Proof.Machine

/-! ## Instructions that set PC -/

/-- An instruction that sets PC and SP and reads the bus: the other registers, memory and the interrupt state stay, and
its step ends with its own count. -/
theorem jump_frame (n : Nat) (sp : Byte) (pc : Word) (e : Env) (o : Out) {s : State} (h : s.dmaPage = none) :
    let t := endStep n { s with sp := sp, pc := pc, env := e, out := o }
    t.pc = pc ∧ t.p = s.p ∧ t.a = s.a ∧ t.x = s.x ∧ t.y = s.y ∧ t.sp = sp ∧ MemoryKept s t ∧ InterruptsKept s t ∧
      Ended n { s with env := e, out := o } t :=
  ⟨endStep_pc n _, endStep_p n _, endStep_a n _, endStep_x n _, endStep_y n _, endStep_sp n _,
    memoryKept_of_eq (endStep_ram n _) (endStep_cart n _), interruptsKept_endStep n rfl rfl rfl rfl,
    ended_endStep n { s with sp := sp, pc := pc, env := e, out := o } h⟩

/-! ## Branches -/

/-- The count of a branch (R210): 2, taken 3, taken to another page than the next instruction's 4. -/
def branchCycles (taken : Bool) (target next : Word) : Nat :=
  if !taken then 2 else if target.toNat / 256 = next.toNat / 256 then 3 else 4

theorem cyclesOf_pageDiffers (a b : Word) : cyclesOf 3 true (pageDiffers a b) = branchCycles true a b := by
  have differs := pageDiffers_iff a b
  cases h : pageDiffers a b with
  | true => exact (if_neg (differs.1 h)).symm
  | false =>
    have same : a.toNat / 256 = b.toNat / 256 := not_not.1 fun other => Bool.false_ne_true (h ▸ differs.2 other)
    exact (if_pos same).symm

/-- A branch, taken or not, is one write of PC. -/
theorem branchInstr_setPC (cond : Byte → Bool) (d : Byte) (s : State) :
    branchInstr cond d s = .next (endStep (branchCycles (cond s.p) (branchTarget d s.pc) s.pc)
      { s with pc := if cond s.p then branchTarget d s.pc else s.pc }) := by
  rw [branchInstr_eq, cyclesOf_pageDiffers]
  cases cond s.p <;> rfl

/-- Settles O37: each branch is the common one over its own test, so it sets PC and nothing else. -/
theorem branchesTestTheirFlag : Obligations.BranchesTestTheirFlag := by
  unfold Obligations.BranchesTestTheirFlag
  intro s d i taken hd hi target n
  have common : ∃ cond : Byte → Bool, cond s.p = taken ∧ exec i s = branchInstr cond d s := by
    simp only [List.mem_cons, List.not_mem_nil, or_false, Prod.mk.injEq] at hi
    rcases hi with ⟨rfl, rfl⟩ | ⟨rfl, rfl⟩ | ⟨rfl, rfl⟩ | ⟨rfl, rfl⟩ | ⟨rfl, rfl⟩ | ⟨rfl, rfl⟩ | ⟨rfl, rfl⟩ |
      ⟨rfl, rfl⟩
    · exact ⟨_, rfl, exec_bpl d s⟩
    · exact ⟨_, rfl, exec_bmi d s⟩
    · exact ⟨_, rfl, exec_bvc d s⟩
    · exact ⟨_, rfl, exec_bvs d s⟩
    · exact ⟨_, rfl, exec_bcc d s⟩
    · exact ⟨_, rfl, exec_bcs d s⟩
    · exact ⟨_, rfl, exec_bne d s⟩
    · exact ⟨_, rfl, exec_beq d s⟩
  obtain ⟨cond, rfl, run⟩ := common
  exact ⟨_, run.trans (branchInstr_setPC cond d s), jump_frame n s.sp _ s.env s.out hd⟩

/-! ## JMP -/

/-- JMP Indirect is two reads and a write of PC. -/
theorem exec_jmpInd_eq (a : Word) (s : State) :
    let second := wordOf (hiByte a) (loByte a + 1)
    let l := busRead a s
    let h := busRead second l.2
    exec (.jmpInd a) s = .next (endStep 5 { s with pc := wordOf h.1 l.1, env := h.2.env, out := h.2.out }) := by
  intro second l h
  have reads : h.2 = { s with env := h.2.env, out := h.2.out } := by
    have first : l.2 = { s with env := l.2.env, out := l.2.out } := busRead_keeps a s
    have both : h.2 = { l.2 with env := h.2.env, out := h.2.out } := busRead_keeps second l.2
    rwa [first] at both
  exact congrArg (fun u : State => Host.Outcome.next (endStep 5 (u.setPC (wordOf h.1 l.1)))) reads

/-- The second pointer byte stays in the page of the first (R130). -/
theorem wordOf_hiByte_page (a : Word) (l : Byte) : (wordOf (hiByte a) l).toNat / 256 = a.toNat / 256 := by
  rw [← hiByte_toNat, hiByte_wordOf, hiByte_toNat]

/-- Short of the page's end, the second pointer byte is at the next address. -/
theorem wordOf_loByte_succ {a : Word} (h : loByte a ≠ 0xFF) : wordOf (hiByte a) (loByte a + 1) = a + 1 := by
  have notLast : a.toNat % 256 ≠ 255 := by
    rw [← loByte_toNat]
    exact fun last => h (BitVec.eq_of_toNat_eq last)
  apply BitVec.eq_of_toNat_eq
  rw [wordOf_toNat, hiByte_toNat, BitVec.toNat_add, BitVec.toNat_add, loByte_toNat, show (1 : Byte).toNat = 1 from rfl,
    show (1 : Word).toNat = 1 from rfl]
  omega

/-- Settles O38: both forms set PC and nothing else, the indirect one after its two reads. -/
theorem jumpsSetPc : Obligations.JumpsSetPc := by
  unfold Obligations.JumpsSetPc
  intro a s hd
  refine ⟨⟨_, exec_jmpAbs a s, jump_frame 3 s.sp a s.env s.out hd⟩, ?indirect⟩
  case indirect =>
    intro second l h
    obtain ⟨pc, p, ra, x, y, sp, memory, interrupts, ended⟩ :=
      jump_frame 5 s.sp (wordOf h.1 l.1) h.2.env h.2.out hd
    have cycles : h.2.cycles = s.cycles := by rw [busRead_cycles, busRead_cycles]
    refine ⟨_, exec_jmpInd_eq a s, pc, wordOf_hiByte_page a _, wordOf_loByte_succ, p, ra, x, y, sp, memory, interrupts,
      ?_⟩
    rw [Ended, cycles]
    exact ended

/-! ## A word on the stack -/

theorem pushWord_ram (w : Word) (s : State) : (pushWord w s).ram =
    (s.ram.write (0x100 + s.sp.toNat) (hiByte w)).write (0x100 + (s.sp - 1).toNat) (loByte w) := by
  rw [pushWord_eq, push_ram, push_ram, push_sp]

/-- Pushing a word changes SP, RAM and the record of the two writes. -/
theorem pushWord_state (w : Word) (s : State) : pushWord w s = { s with
    sp := s.sp - 2
    ram := (pushWord w s).ram
    out := { s.out with
      bus := .write (stackSlot (s.sp - 1)) (loByte w) :: .write (stackSlot s.sp) (hiByte w) :: s.out.bus } } := by
  have sp : s.sp - 1 - 1 = s.sp - 2 := sp_sub_two s.sp
  rw [pushWord_ram, stackSlot_eq, stackSlot_eq, ← sp, pushWord_eq, push_eq (loByte w), push_sp, push_ram, push_eq]
  simp only [State.setSP, State.logBus, State.setOut, State.setRam]

theorem pushWord_sp (w : Word) (s : State) : (pushWord w s).sp = s.sp - 2 :=
  congrArg State.sp (pushWord_state w s)

theorem ramStores_pushWord {w : Word} {s t : State} (hr : t.ram = (pushWord w s).ram) (hc : t.cart = s.cart) :
    RamStores [(stackSlot (s.sp - 1), loByte w), (stackSlot s.sp, hiByte w)] s t := by
  have high : RamStores [(stackSlot s.sp, hiByte w)] s (push (hiByte w) s) :=
    ramStores_one (push_ram _ s) (push_cart _ s)
  refine ramStores_cons high (hr.trans ?_) (hc.trans (push_cart _ s).symm)
  rw [pushWord_ram, push_ram]

/-- Pulling a word changes SP and the record of the two reads; the byte above SP is its low one, the next its high
one. -/
theorem pullWord_state (s : State) : pullWord s =
    (wordOf (s.ram.read (0x100 + (s.sp + 2).toNat)) (s.ram.read (0x100 + (s.sp + 1).toNat)),
      { s with sp := s.sp + 2, out := (pullWord s).2.out }) := by
  have sp : s.sp + 1 + 1 = s.sp + 2 := sp_add_two s.sp
  rw [← sp, pullWord_eq, pull_eq, pull_eq]
  rfl

/-- A stack slot is not the one below it, also where SP wraps. -/
theorem stackCell_ne_below (sp : Byte) : 0x100 + sp.toNat ≠ 0x100 + (sp - 1).toNat := by
  revert sp; decide

/-- Two pulls find the word last pushed, whatever the machine did between that kept RAM and SP. -/
theorem pullWord_after_pushWord {w : Word} {s t : State} (hr : t.ram = (pushWord w s).ram)
    (hs : t.sp = (pushWord w s).sp) : (pullWord t).1 = w := by
  have low : s.sp - 2 + 1 = s.sp - 1 :=
    (congrArg (· + 1) (sp_sub_two s.sp).symm).trans (BitVec.sub_add_cancel (s.sp - 1) 1)
  have high : s.sp - 2 + 2 = s.sp := BitVec.sub_add_cancel s.sp 2
  rw [pullWord_state, hr, hs, pushWord_sp, pushWord_ram, low, high, Memory.read_write_same,
    Memory.read_write_other _ _ _ _ (stackCell_ne_below s.sp), Memory.read_write_same, wordOf_bytes]

/-! ## JSR and RTS -/

theorem exec_jsr_eq (a : Word) (s : State) : exec (.jsr a) s = .next (endStep 6 { s with
    sp := s.sp - 2
    pc := a
    ram := (pushWord (s.pc - 1) s).ram
    out := { s.out with
      bus := .write (stackSlot (s.sp - 1)) (loByte (s.pc - 1)) :: .write (stackSlot s.sp) (hiByte (s.pc - 1)) ::
        s.out.bus } }) :=
  congrArg (fun u : State => Host.Outcome.next (endStep 6 (u.setPC a))) (pushWord_state (s.pc - 1) s)

theorem exec_rts_eq (s : State) : exec .rts s = .next (endStep 6 { s with
    sp := s.sp + 2
    pc := (pullWord s).1 + 1
    env := s.env
    out := (pullWord s).2.out }) :=
  congrArg (fun u : State => Host.Outcome.next (endStep 6 (u.setPC ((pullWord s).1 + 1))))
    (congrArg Prod.snd (pullWord_state s))

/-- Settles O39: JSR is the push of a word and a write of PC. -/
theorem jsrPushesReturnAddress : Obligations.JsrPushesReturnAddress := by
  unfold Obligations.JsrPushesReturnAddress
  intro a s hd
  refine ⟨_, exec_jsr_eq a s, endStep_pc 6 _, endStep_sp 6 _, ramStores_pushWord (endStep_ram 6 _) (endStep_cart 6 _),
    endStep_p 6 _, endStep_a 6 _, endStep_x 6 _, endStep_y 6 _, interruptsKept_endStep 6 rfl rfl rfl rfl, ?_⟩
  rw [endStep_none]
  · exact ⟨rfl, rfl, rfl, rfl, rfl⟩
  · exact hd

/-- Settles O40: RTS is the pull of a word and a write of PC, and it pulls the word its JSR pushed. -/
theorem rtsReturnsPastTheCall : Obligations.RtsReturnsPastTheCall := by
  unfold Obligations.RtsReturnsPastTheCall
  intro s hd
  refine ⟨?pulls, fun a => ?undoes⟩
  case pulls =>
    obtain ⟨pc, p, a, x, y, sp, memory, interrupts, cycles, env, out⟩ :=
      jump_frame 6 (s.sp + 2) ((pullWord s).1 + 1) s.env (pullWord s).2.out hd
    have returned := congrArg Out.returned out
    exact ⟨_, _, _, peek_stackSlot _ s, peek_stackSlot _ s, exec_rts_eq s,
      pc.trans (congrArg (fun r => r.1 + 1) (pullWord_state s)), sp, p, a, x, y, memory, interrupts, cycles, env,
      returned⟩
  case undoes =>
    obtain ⟨t, called, ram, sp⟩ : ∃ t, exec (.jsr a) s = .next t ∧
        t.ram = (pushWord (s.pc - 1) s).ram ∧ t.sp = s.sp - 2 :=
      ⟨_, exec_jsr_eq a s, endStep_ram 6 _, endStep_sp 6 _⟩
    have found : (pullWord t).1 = s.pc - 1 := pullWord_after_pushWord ram (sp.trans (pushWord_sp _ s).symm)
    refine ⟨t, _, called, exec_rts_eq t, ?_, ?_⟩
    · rw [endStep_pc, found]
      exact BitVec.sub_add_cancel s.pc 1
    · rw [endStep_sp, sp]
      exact BitVec.sub_add_cancel s.sp 2

end Sys2Proof.Machine

end

/-! The system, exception and reset family (spec/48_system_flag_nop.md, spec/60_exceptions.md,
spec/70_reset_and_hazards.md): the flag instructions, BRK and RTI (R230 to R239), the boundary and the interrupt entries
(R251 to R262), reset (R300, R301), the trace line (R270) and the transactions of an instruction's step (R306). -/

section

namespace Sys2Proof.Machine

/-! ## Flag instructions and NOP (R232 to R239) -/

theorem setBit_and_bit {i : Nat} (h : i < 8) (b : Bool) (p : Byte) :
    setBit i b p &&& (1#8 <<< i) = if b then 1#8 <<< i else 0#8 := by
  apply BitVec.eq_of_getLsbD_eq
  intro j hj
  rw [BitVec.getLsbD_and, setBit_getLsbD i j b p h]
  by_cases e : j = i
  · subst e
    cases b <;> simp [hj]
  · cases b <;> simp [e] <;> omega

/-- Setting one bit of P to `b`: that bit of P is `b`, the seven others stay. -/
theorem setBit_flags {i : Nat} (h : i < 8) (b : Bool) (p : Byte) :
    setBit i b p &&& (1#8 <<< i) = (if b then 1#8 <<< i else 0#8) ∧ FlagsKept (1#8 <<< i) p (setBit i b p) := by
  have outside : (~~~(1#8 <<< i)).getLsbD i = false := by simp [h]
  exact ⟨setBit_and_bit h b p, setBit_and i b p _ h outside⟩

/-- Settles O41: each instruction writes one bit of P, NOP none, and nothing else. -/
theorem flagInstructionsWriteOneFlag : Obligations.FlagInstructionsWriteOneFlag := by
  unfold Obligations.FlagInstructionsWriteOneFlag
  intro s i mask value hd hi
  have run : ∃ q, exec i s = .next (endStep 2 { s with p := q }) ∧ q &&& mask = value ∧ FlagsKept mask s.p q := by
    simp only [List.mem_cons, List.not_mem_nil, or_false, Prod.mk.injEq] at hi
    rcases hi with ⟨rfl, rfl, rfl⟩ | ⟨rfl, rfl, rfl⟩ | ⟨rfl, rfl, rfl⟩ | ⟨rfl, rfl, rfl⟩ |
      ⟨rfl, rfl, rfl⟩ | ⟨rfl, rfl, rfl⟩ | ⟨rfl, rfl, rfl⟩ | ⟨rfl, rfl, rfl⟩
    · exact ⟨_, exec_clc s, setBit_flags (i := 0) (by decide) false s.p⟩
    · exact ⟨_, exec_sec s, setBit_flags (i := 0) (by decide) true s.p⟩
    · exact ⟨_, exec_cli s, setBit_flags (i := 2) (by decide) false s.p⟩
    · exact ⟨_, exec_sei s, setBit_flags (i := 2) (by decide) true s.p⟩
    · exact ⟨_, exec_clv s, setBit_flags (i := 6) (by decide) false s.p⟩
    · exact ⟨_, exec_cld s, setBit_flags (i := 3) (by decide) false s.p⟩
    · exact ⟨_, exec_sed s, setBit_flags (i := 3) (by decide) true s.p⟩
    · exact ⟨s.p, exec_nop s, BitVec.and_zero, rfl⟩
  obtain ⟨q, hq, written, kept⟩ := run
  have p : (endStep 2 { s with p := q }).p = q := endStep_p 2 _
  rw [← p] at written kept
  exact ⟨_, hq, written, kept, endStep_a 2 _, endStep_x 2 _, endStep_y 2 _, endStep_sp 2 _,
    registers_frame 2 s.a s.x s.y s.sp q s.out hd⟩

/-! ## The boundary (R251, R255, R257) -/

theorem boundary_nmi {s : State} (h : s.halted = false) (hn : nmiSeen s = true) :
    boundary s = .entry (serviceNmi (sampled s)) := by
  rw [boundary_eq s h, if_pos ((sampled_nmiPending s).trans hn)]

theorem boundary_no_nmi {s : State} (h : s.halted = false) (hn : nmiSeen s = false) : boundary s =
    if irqLevel s && !flagI s.p then .entry (serviceIrq (sampled s)) else .run (sampled s) := by
  rw [boundary_eq s h, sampled_nmiPending, hn, sampled_irqLine, sampled_p]
  rfl

theorem boundary_irq {s : State} (h : s.halted = false) (hn : nmiSeen s = false) (hi : irqLevel s = true)
    (hp : flagI s.p = false) : boundary s = .entry (serviceIrq (sampled s)) := by
  rw [boundary_no_nmi h hn, hi, hp]
  rfl

theorem boundary_uninterrupted {s : State} (h : s.halted = false) (hn : nmiSeen s = false)
    (hi : irqLevel s = false ∨ flagI s.p = true) : boundary s = .run (sampled s) := by
  rw [boundary_no_nmi h hn]
  rcases hi with hi | hi <;> simp [hi]

theorem step_of_entry {s u : State} (h : boundary s = .entry u) : step s = .next (endStep entryCycles u) := by
  simp only [step, h]

/-- Settles O9: the machine that runs is the one that has sampled its inputs. -/
theorem instructionRunsUnlessInterrupted : Obligations.InstructionRunsUnlessInterrupted := by
  unfold Obligations.InstructionRunsUnlessInterrupted
  intro s h hn hi
  have answers : (sampled s).env.portAnswers = s.env.portAnswers := by simp [sampled]
  exact ⟨sampled s, boundary_uninterrupted h hn hi, sampled_a s, sampled_x s, sampled_y s, sampled_sp s, sampled_p s,
    sampled_pc s, sampled_cycles s, sampled_dmaPage s, (sampled_halted s).trans h,
    memoryKept_of_eq (sampled_ram s) (sampled_cart s), (sampled_nmiPending s).trans hn, sampled_nmiPrev s,
    sampled_irqLine s, sampled_bus s, sampled_ports s, answers⟩

/-- Settles O42: the boundary after CLI sees I clear and the one after SEI sees it set. -/
theorem interruptDisableActsAtNextBoundary : Obligations.InterruptDisableActsAtNextBoundary := by
  unfold Obligations.InterruptDisableActsAtNextBoundary
  intro s _ hh _
  refine ⟨⟨_, exec_cli s, fun hn hi => ?cli⟩, ⟨_, exec_sei s, fun hn => ?sei⟩⟩
  case cli =>
    have clear : flagI (endStep 2 (s.setP (setI false s.p))).p = false := by simp
    refine ⟨_, boundary_irq (by simpa using hh) hn hi clear, ?_⟩
    obtain ⟨bus, -⟩ := interruptEntry_hijackable false (sampled (endStep 2 (s.setP (setI false s.p))))
    rw [serviceIrq, bus, sampled_bus, sampled_sp, sampled_pc]
    rfl
  case sei =>
    have masked : flagI (endStep 2 (s.setP (setI true s.p))).p = true := by simp
    exact ⟨_, boundary_uninterrupted (by simpa using hh) hn (.inr masked), sampled_pc _⟩

/-! ## BadOpcode and the halted machine (R251, R262) -/

theorem fetchInstr_undocumented {s : State} (h : formatOf (busRead s.pc s).1 = none) :
    fetchInstr s = .bad (busRead s.pc s).1 s.pc ((busRead s.pc s).2.setHalted true) := by
  rw [fetchInstr_eq]
  simp only [h]

/-- Settles O10: the machine left behind is the sampled one after one read, with `halted` set. -/
theorem undocumentedOpcodeFaults : Obligations.UndocumentedOpcodeFaults := by
  unfold Obligations.UndocumentedOpcodeFaults
  intro s u hb hf
  have bad := fetchInstr_undocumented hf
  obtain ⟨-, rfl, -, -⟩ := boundary_run hb
  have faults : step s = .fault (.badOpcode (busRead (sampled s).pc (sampled s)).1 (sampled s).pc) := by
    simp only [step, hb, bad]
  have left : afterStep s = (busRead (sampled s).pc (sampled s)).2.setHalted true := by
    simp only [afterStep, hb, bad]
  rw [sampled_pc] at faults left ⊢
  refine ⟨faults, ?_⟩
  rw [left]
  exact ⟨rfl, by simp, by simp, by simp, by simp, by simp, by simp, by simp, by simp,
    memoryKept_of_eq (by simp) (by simp), by simp, by simp⟩

theorem resetCpu_halted (s : State) : (resetCpu s).halted = false := by
  rw [resetCpu_eq_powerUp]
  rfl

/-- Settles O11: a halted machine's boundary is no step. -/
theorem haltedMachineTakesNoStep : Obligations.HaltedMachineTakesNoStep := by
  unfold Obligations.HaltedMachineTakesNoStep
  intro s h
  have hb := boundary_halted s h
  exact ⟨by simp only [step, hb], by simp only [afterStep, hb], resetCpu_halted s⟩

/-! ## PollNmi (R253) -/

/-- Settles O12: the poll is one record of new bookkeeping, inputs and outputs. -/
theorem pollNmiLatchesRisingEdge : Obligations.PollNmiLatchesRisingEdge := by
  unfold Obligations.PollNmiLatchesRisingEdge
  intro s t
  have latch : t.nmiPending = true ↔ s.nmiPending = true ∨ (nmiLevel s = true ∧ s.nmiPrev = false) := by simp [t]
  refine ⟨latch, rfl, rfl, rfl, memoryKept_of_eq rfl rfl, rfl, fun b bs plan => ?planned, fun plan => ?used⟩
  case planned =>
    have level : nmiLevel s = b := by simp only [nmiLevel, plan]
    exact ⟨level, congrArg List.tail plan⟩
  case used =>
    have level : nmiLevel s = s.env.nmiLine := by simp only [nmiLevel, plan]
    exact ⟨level, congrArg List.tail plan⟩

/-! ## The interrupt entries (R254, R255, R258, R260; BRK R230) -/

/-- The three bytes an entry pushes, as memory shows them. -/
theorem ramStores_entry {s t : State} {pc : Word} {status : Byte}
    (hr : t.ram = ((s.ram.write (0x100 + s.sp.toNat) (hiByte pc)).write (0x100 + (s.sp - 1).toNat) (loByte pc)).write
      (0x100 + (s.sp - 1 - 1).toNat) status) (hc : t.cart = s.cart) :
    RamStores [(stackSlot (s.sp - 2), status), (stackSlot (s.sp - 1), loByte pc), (stackSlot s.sp, hiByte pc)] s t := by
  have kept : (pushWord pc s).cart = s.cart := by simp [pushWord_eq]
  have address : RamStores [(stackSlot (s.sp - 1), loByte pc), (stackSlot s.sp, hiByte pc)] s (pushWord pc s) :=
    ramStores_pushWord rfl kept
  have sp : s.sp - 1 - 1 = s.sp - 2 := sp_sub_two s.sp
  rw [← pushWord_ram, sp] at hr
  exact ramStores_cons address hr (hc.trans kept.symm)

/-- `u` is a machine that enters from `s`: as `s` but for PC, the NMI bookkeeping, `irq_line`, the inputs and the
outputs. -/
structure EntersFrom (s u : State) : Prop where
  a       : u.a = s.a
  x       : u.x = s.x
  y       : u.y = s.y
  sp      : u.sp = s.sp
  p       : u.p = s.p
  cycles  : u.cycles = s.cycles
  halted  : u.halted = s.halted
  dmaPage : u.dmaPage = s.dmaPage
  ram     : u.ram = s.ram
  cart    : u.cart = s.cart

theorem entersFrom_sampled (s : State) : EntersFrom s (sampled s) :=
  ⟨sampled_a s, sampled_x s, sampled_y s, sampled_sp s, sampled_p s, sampled_cycles s, sampled_halted s,
    sampled_dmaPage s, sampled_ram s, sampled_cart s⟩

/-- What the step of an entry does whatever its vector and its re-poll. -/
theorem entry_frame (vector : Word) (b hijackable : Bool) {s u : State} {pc : Word} {status : Byte}
    (hu : EntersFrom s u) (hd : s.dmaPage = none) (hpc : u.pc = pc) (hs : pushedStatus b s.p = status) :
    let t := endStep entryCycles (interruptEntry vector b hijackable u)
    (t.a = s.a ∧ t.x = s.x ∧ t.y = s.y ∧ t.sp = s.sp - 3 ∧ t.p = s.p ||| 0x04) ∧ t.cycles = s.cycles + 7 ∧
      t.irqLine = u.irqLine ∧ t.halted = s.halted ∧ t.dmaPage = none ∧
      RamStores [(stackSlot (s.sp - 2), status), (stackSlot (s.sp - 1), loByte pc), (stackSlot s.sp, hiByte pc)] s t ∧
      t.out = { (interruptEntry vector b hijackable u).out with returned := some 7 } := by
  intro t
  have sp : s.sp - 1 - 1 - 1 = s.sp - 3 := (congrArg (· - 1) (sp_sub_two s.sp)).trans (sp_sub_three s.sp)
  have noDma : (interruptEntry vector b hijackable u).dmaPage = none := by rw [interruptEntry_dmaPage, hu.dmaPage, hd]
  obtain ⟨cycles, -, out⟩ := ended_endStep entryCycles _ noDma
  refine ⟨⟨?_, ?_, ?_, ?_, ?_⟩, ?_, ?_, ?_, endStep_dmaPage _ _, ramStores_entry ?_ ?_, out⟩
  · rw [endStep_a, interruptEntry_a, hu.a]
  · rw [endStep_x, interruptEntry_x, hu.x]
  · rw [endStep_y, interruptEntry_y, hu.y]
  · rw [endStep_sp, interruptEntry_sp, hu.sp, sp]
  · rw [endStep_p, interruptEntry_p, hu.p, setI_true]
  · rw [cycles, interruptEntry_cycles, hu.cycles]
    rfl
  · rw [endStep_irqLine, interruptEntry_irqLine]
  · rw [endStep_halted, interruptEntry_halted, hu.halted]
  · rw [endStep_ram, interruptEntry_ram, hu.ram, hu.sp, hu.p, hpc, hs]
  · rw [endStep_cart, interruptEntry_cart, hu.cart]

/-- Settles O13: the plain entry at $FFFA on the sampled machine with the latch cleared. -/
theorem nmiEntersFirst : Obligations.NmiEntersFirst := by
  unfold Obligations.NmiEntersFirst
  intro s hh hn hd
  let u := (sampled s).setNmiPending false
  have enters : EntersFrom s u := ⟨sampled_a s, sampled_x s, sampled_y s, sampled_sp s, sampled_p s, sampled_cycles s,
    sampled_halted s, sampled_dmaPage s, sampled_ram s, sampled_cart s⟩
  have pc : u.pc = s.pc := sampled_pc s
  have status := pushedStatus_false s.p
  obtain ⟨⟨a, x, y, sp, p⟩, cycles, irq, halted, dma, stores, out⟩ :=
    entry_frame nmiVector false false enters hd pc status
  obtain ⟨bus, ports, -, pending, prev⟩ := interruptEntry_plain nmiVector false u (by decide) (by decide)
  have target := interruptEntry_pc nmiVector false u (by decide) (by decide)
  have noBus : u.out.bus = [] := sampled_bus s
  rw [enters.sp, enters.p, enters.cart, pc, status, noBus] at bus
  rw [enters.cart] at target
  refine ⟨_, step_of_entry (boundary_nmi hh hn), a, x, y, sp, p, (endStep_pc ..).trans target, cycles, ?_,
    (endStep_nmiPending ..).trans pending, ?_, irq.trans (sampled_irqLine s), halted.trans hh, dma, stores, ?_, ?_⟩
  · rw [serviceNmi, out]
  · rw [serviceNmi, endStep_nmiPrev, prev]
    exact sampled_nmiPrev s
  · rw [serviceNmi, out, bus]
    rfl
  · rw [serviceNmi, out, ports]
    exact sampled_ports s

theorem nmiLevel_sampled (s : State) : nmiLevel (sampled s) = nmiLevel (pollNmi s) :=
  nmiLevel_congr (by simp [sampled]) (by simp [sampled])

/-- The re-poll of an IRQ entry: the latch is clear and the boundary's level is the previous one. -/
theorem hijackVector_sampled {s : State} (hn : nmiSeen s = false) :
    hijackVector (sampled s) = if nmiLevel (pollNmi s) && !nmiLevel s then 0xFFFA else 0xFFFE := by
  rw [hijackVector, nmiSeen, sampled_nmiPending, hn, nmiLevel_sampled, sampled_nmiPrev]
  rfl

/-- Settles O14: the hijackable entry on the sampled machine. -/
theorem irqEntersWhenUnmasked : Obligations.IrqEntersWhenUnmasked := by
  unfold Obligations.IrqEntersWhenUnmasked
  intro s hh hn hi hf hd second vector
  have enters := entersFrom_sampled s
  have status := pushedStatus_false s.p
  obtain ⟨⟨a, x, y, sp, p⟩, cycles, irq, halted, dma, stores, out⟩ :=
    entry_frame irqVector false true enters hd (sampled_pc s) status
  obtain ⟨bus, ports, pending, prev, target⟩ := interruptEntry_hijackable false (sampled s)
  rw [enters.sp, enters.p, enters.cart, sampled_pc, status, hijackVector_sampled hn, sampled_bus] at bus
  rw [enters.cart, hijackVector_sampled hn] at target
  rw [nmiLevel_sampled, sampled_ports] at ports
  refine ⟨_, step_of_entry (boundary_irq hh hn hi hf), a, x, y, sp, p, (endStep_pc ..).trans target, cycles, ?_,
    (endStep_nmiPending ..).trans pending, ?_, (irq.trans (sampled_irqLine s)).trans hi, halted.trans hh, dma, stores,
    ?_, ?_⟩
  · rw [serviceIrq, out]
  · rw [serviceIrq, endStep_nmiPrev, prev, nmiLevel_sampled]
  · rw [serviceIrq, out, bus]
    rfl
  · rw [serviceIrq, out, ports]

/-- Settles O15: the hijackable entry on the machine with PC past the padding byte. -/
theorem brkEnters : Obligations.BrkEnters := by
  unfold Obligations.BrkEnters
  intro s hd
  let u := s.setPC (s.pc + 1)
  have enters : EntersFrom s u := ⟨rfl, rfl, rfl, rfl, rfl, rfl, rfl, rfl, rfl, rfl⟩
  have status := pushedStatus_true s.p
  obtain ⟨⟨a, x, y, sp, p⟩, cycles, irq, halted, dma, stores, out⟩ :=
    entry_frame irqVector true true enters hd rfl status
  obtain ⟨bus, ports, pending, prev, target⟩ := interruptEntry_hijackable true u
  rw [enters.p, status] at bus
  refine ⟨_, exec_brk s, a, x, y, sp, p, (endStep_pc ..).trans target, cycles, congrArg Out.returned out,
    (endStep_nmiPending ..).trans pending, (endStep_nmiPrev ..).trans prev, irq, halted, dma, stores,
    (congrArg Out.bus out).trans bus, (congrArg Out.ports out).trans ports⟩

/-! ## The return from an interrupt (R231, R261) -/

/-- Settles O16: RTI is three pulls, which keep everything but SP, P, PC and the record. -/
theorem rtiPullsStatusThenPc : Obligations.RtiPullsStatusThenPc := by
  unfold Obligations.RtiPullsStatusThenPc
  intro s hd
  have two : s.sp + 1 + 1 = s.sp + 2 := sp_add_two s.sp
  have three : s.sp + 2 + 1 = s.sp + 3 := sp_add_three s.sp
  have p := returnFromInterrupt_p s
  have pc := returnFromInterrupt_pc s
  have sp := returnFromInterrupt_sp s
  rw [two, three] at pc sp
  have noDma : (returnFromInterrupt s).dmaPage = none := (returnFromInterrupt_dmaPage s).trans hd
  obtain ⟨cycles, env, out⟩ := ended_endStep 6 (returnFromInterrupt s) noDma
  refine ⟨_, exec_rti s, by simp, by simp, by simp, (endStep_sp ..).trans sp,
    ⟨_, _, _, peek_stackSlot _ s, peek_stackSlot _ s, peek_stackSlot _ s, (endStep_p ..).trans p,
      (endStep_pc ..).trans pc⟩, ?_, congrArg Out.returned out, memoryKept_of_eq (by simp) (by simp),
    interruptsKept_endStep 6 (by simp) (by simp) (by simp) (by simp), env.trans (returnFromInterrupt_env s)⟩
  rw [cycles, returnFromInterrupt_cycles]
  rfl

/-- A stack slot is not the second one below it, also where SP wraps. -/
theorem stackCell_ne_two_below (sp : Byte) : 0x100 + sp.toNat ≠ 0x100 + (sp - 1 - 1).toNat := by
  revert sp; decide

/-- Settles O17: the three pulls read the three cells the entry wrote, which differ at every SP. -/
theorem returnUndoesEntry : Obligations.ReturnUndoesEntry := by
  unfold Obligations.ReturnUndoesEntry
  intro s vector b hijackable fixed t
  have up (x : Byte) : x - 1 + 1 = x := BitVec.sub_add_cancel x 1
  refine ⟨?pc, ?p, ?sp, by simp [t], by simp [t], by simp [t], by simp [t]⟩
  case pc =>
    simp only [t]
    rw [returnFromInterrupt_pc, interruptEntry_sp, interruptEntry_ram, up, up, up,
      Memory.read_write_other _ _ _ _ (stackCell_ne_two_below s.sp),
      Memory.read_write_other _ _ _ _ (stackCell_ne_below s.sp), Memory.read_write_same,
      Memory.read_write_other _ _ _ _ (stackCell_ne_below (s.sp - 1)), Memory.read_write_same, wordOf_bytes]
  case p =>
    simp only [t]
    rw [returnFromInterrupt_p, interruptEntry_sp, interruptEntry_ram, up, Memory.read_write_same,
      pulledStatus_pushedStatus b s.p fixed]
  case sp =>
    simp only [t]
    rw [returnFromInterrupt_sp, interruptEntry_sp, up, up, up]

/-! ## The latch after a step (R251, R254, R260) -/

/-- Settles O18: the acts of a step begin with the latch clear, and none but the re-poll sets it, which clears it. -/
theorem noNmiStaysLatchedAfterAStep : Obligations.NoNmiStaysLatchedAfterAStep := by
  unfold Obligations.NoNmiStaysLatchedAfterAStep
  intro s t h
  obtain ⟨n, u, rfl, acts⟩ := acts_of_step h
  rw [endStep_nmiPending]
  exact acts.nmiPending rfl

/-! ## Reset and power-up (R300, R301, R43) -/

theorem imageCart_prgRam {buf : List Byte} {ram : Memory} (h : (imageCart buf ram).config.hasPrgRam = true) :
    (imageCart buf ram).prgRam = ram := if_pos h

/-- Settles O2: a reset is a power-up with the ports and `irq_line` kept, and power-up is one record. -/
theorem resetSetsTheCpuAndKeepsTheRest : Obligations.ResetSetsTheCpuAndKeepsTheRest := by
  unfold Obligations.ResetSetsTheCpuAndKeepsTheRest
  refine ⟨fun s => ?reset, fun c ramInit e => ?powerUp, fun buf ramInit prgRamInit e s h => ?image⟩
  case reset =>
    rw [resetCpu_eq_powerUp]
    exact ⟨rfl, rfl, rfl, rfl, rfl, rfl, rfl, rfl, rfl, rfl, rfl, rfl, rfl, rfl, rfl, rfl, rfl⟩
  case powerUp => exact ⟨rfl, rfl, rfl, rfl, rfl, rfl, rfl, rfl⟩
  case image =>
    obtain ⟨c, hc, rfl⟩ := powerUpImage_eq_ok h
    refine ⟨hc, rfl, fun present => ?_⟩
    obtain rfl := loadImage_eq_ok hc
    exact imageCart_prgRam present

/-! ## The trace line (R270) -/

theorem encode_length (i : Instr) : (encode i).length = i.row.mode.length := by
  cases i <;> rfl

theorem traceLine_run {s u v : State} {i : Instr} (hb : boundary s = .run u) (hf : fetchInstr u = .instr i v) :
    traceLine s = some (traceText s (encode i) i.row.mnemonic.name) := by
  have reads := fetchInstr_reads u
  rw [hf] at reads
  obtain ⟨_, rfl, bytes, -⟩ := reads
  rw [encode_length] at bytes
  simp only [traceLine, hb, hf, bytes]

theorem traceLine_entry {s u : State} (hb : boundary s = .entry u) : traceLine s = none := by
  simp only [traceLine, hb]

theorem traceLine_halted {s : State} (h : s.halted = true) : traceLine s = none := by
  simp only [traceLine, boundary_halted s h]

/-- A step that faults is a halted machine's or finds an illegal byte: no instruction's meaning faults. -/
theorem traceLine_fault {s : State} {f : Fault} (h : step s = .fault f) : traceLine s = none := by
  cases hb : boundary s with
  | halted => simp only [traceLine, hb]
  | entry u => exact traceLine_entry hb
  | run u =>
    cases hf : fetchInstr u with
    | bad op pc v => simp only [traceLine, hb, hf]
    | instr i v =>
      obtain ⟨t, ht⟩ := exec_next i v
      simp only [step, hb, hf, ht] at h
      cases h

theorem hex2_eq (b : Byte) : hex2 b = [hexDigit (b.toNat / 16 % 16), hexDigit (b.toNat % 16)] := by
  have h := b.isLt
  rw [hex2, Nat.mod_eq_of_lt (by omega : b.toNat / 16 < 16)]

theorem hex4_eq (w : Word) : hex4 w = [hexDigit (w.toNat / 4096 % 16), hexDigit (w.toNat / 256 % 16),
    hexDigit (w.toNat / 16 % 16), hexDigit (w.toNat % 16)] := by
  have h := w.isLt
  rw [hex4, hex2_eq, hex2_eq, hiByte_toNat, loByte_toNat, Nat.div_div_eq_div_mul, Nat.mod_mod_of_dvd _ (by decide),
    show w.toNat % 256 / 16 % 16 = w.toNat / 16 % 16 by omega]
  rfl

/-- Settles O60: the line is of the instruction fetched, its bytes are the encoding, and a digit is written as R270 has
it. -/
theorem traceLineHasItsLayout : Obligations.TraceLineHasItsLayout := by
  unfold Obligations.TraceLineHasItsLayout
  intro letters digit two four
  have two_eq : two = hex2 := funext fun b => (hex2_eq b).symm
  have four_eq : four = hex4 := funext fun w => (hex4_eq w).symm
  have letters_eq (m : Mnemonic) : (letters m).toList = m.name := by
    have spelled : letters m = String.ofList m.name := by cases m <;> rfl
    rw [spelled, String.toList_ofList]
  refine ⟨fun s u i rest hb hd => ?line, fun s h => ?entry, fun s f h => traceLine_fault h⟩
  case line =>
    obtain ⟨v, hf⟩ := fetchInstr_of_decode hd
    rw [traceLine_run hb hf]
    refine ⟨?_, fun hpc ha hx hy hp hsp hc hi => ?_⟩
    · rw [two_eq, four_eq, letters_eq]
      simp [traceText, traceField]
    · simp only [traceText, hpc, ha, hx, hy, hp, hsp, hc, hi]
      rfl
  case entry =>
    cases hh : s.halted with
    | true => exact traceLine_halted hh
    | false =>
      cases hn : nmiSeen s with
      | true => exact traceLine_entry (boundary_nmi hh hn)
      | false =>
        obtain ⟨hi, hp⟩ := h.resolve_left (by rw [hn]; decide)
        exact traceLine_entry (boundary_irq hh hn hi hp)

/-! ## The transactions of an instruction (R306) -/

/-- The page of the OAMDMA the transactions start, newest first: that of the last write to $4014. -/
def startedDma : List BusTxn → Option Byte
  | [] => none
  | .read _ _ :: ts => startedDma ts
  | .write a v :: ts => if a = 0x4014 then some v else startedDma ts

theorem startedDma_append (late early : List BusTxn) :
    startedDma (late ++ early) = (startedDma late).or (startedDma early) := by
  induction late with
  | nil => rfl
  | cons t ts ih =>
    cases t with
    | read a v => exact ih
    | write a v =>
      simp only [List.cons_append, startedDma, ih]
      split <;> rfl

theorem startedDma_eq_none {ts : List BusTxn} (h : ∀ page, .write 0x4014 page ∉ ts) : startedDma ts = none := by
  induction ts with
  | nil => rfl
  | cons t ts ih =>
    have rest := ih fun page hp => h page (List.mem_cons_of_mem t hp)
    cases t with
    | read a v => exact rest
    | write a v =>
      have other : a ≠ 0x4014 := fun ha => h v (ha ▸ List.mem_cons_self ..)
      rw [startedDma, if_neg other, rest]

/-- A write to $4014 that is the only one decides the page. -/
theorem startedDma_of_mem {ts : List BusTxn} {page : Byte} (h : .write 0x4014 page ∈ ts)
    (once : (ts.map BusTxn.access).count (true, 0x4014) ≤ 1) : startedDma ts = some page := by
  induction ts with
  | nil => cases h
  | cons t ts ih =>
    cases t with
    | read a v =>
      have rest : .write 0x4014 page ∈ ts := (List.mem_cons.1 h).resolve_left fun e => BusTxn.noConfusion e
      rw [List.map_cons, List.count_cons_of_ne (by simp [BusTxn.access])] at once
      exact ih rest once
    | write a v =>
      by_cases ha : a = 0x4014
      · subst ha
        rw [List.map_cons, BusTxn.access, List.count_cons_self] at once
        have gone : .write 0x4014 page ∉ ts := fun hm =>
          List.count_eq_zero.1 (Nat.le_zero.1 (Nat.le_of_succ_le_succ once)) (List.mem_map_of_mem hm)
        have same : BusTxn.write 0x4014 page = .write 0x4014 v := (List.mem_cons.1 h).resolve_right gone
        rw [startedDma, if_pos rfl, (BusTxn.write.inj same).2]
      · have rest : .write 0x4014 page ∈ ts :=
          (List.mem_cons.1 h).resolve_left fun e => ha (BusTxn.write.inj e).1.symm
        rw [List.map_cons, List.count_cons_of_ne (by simpa [BusTxn.access] using ha)] at once
        rw [startedDma, if_neg ha]
        exact ih rest once

/-- From `s` to `t` the bus made exactly the accesses listed, oldest first, and `dma_page` is what the writes among them
make of it. -/
def Transacts (s : State) (accesses : List (Bool × Word)) (t : State) : Prop :=
  ∃ new, t.out.bus = new ++ s.out.bus ∧ new.reverse.map BusTxn.access = accesses ∧
    t.dmaPage = (startedDma new).or s.dmaPage

namespace Transacts

/-- Register writes and port calls make no transaction. -/
theorem silent {s t : State} (hb : t.out.bus = s.out.bus) (hd : t.dmaPage = s.dmaPage) : Transacts s [] t :=
  ⟨[], hb, rfl, hd⟩

theorem trans {s t u : State} {first second : List (Bool × Word)} (h : Transacts s first t)
    (k : Transacts t second u) : Transacts s (first ++ second) u := by
  obtain ⟨early, hb, ha, hd⟩ := h
  obtain ⟨late, kb, ka, kd⟩ := k
  refine ⟨late ++ early, ?_, ?_, ?_⟩
  · rw [kb, hb, List.append_assoc]
  · rw [List.reverse_append, List.map_append, ha, ka]
  · rw [kd, hd, startedDma_append, Option.or_assoc]

/-- A machine with the same record and the same `dma_page` in the place of the last. -/
theorem congr {s t u : State} {accesses : List (Bool × Word)} (h : Transacts s accesses t)
    (hb : u.out.bus = t.out.bus) (hd : u.dmaPage = t.dmaPage) : Transacts s accesses u := by
  simpa using h.trans (silent hb hd)

theorem busRead (a : Word) (s : State) : Transacts s [(false, a)] (busRead a s).2 :=
  ⟨[.read a (Machine.busRead a s).1], busRead_bus a s, rfl, busRead_dmaPage a s⟩

theorem busWrite (a : Word) (v : Byte) (s : State) : Transacts s [(true, a)] (busWrite a v s) := by
  refine ⟨[.write a v], busWrite_bus a v s, rfl, ?_⟩
  rw [busWrite_dmaPage, startedDma]
  split <;> rfl

theorem effective (o : Operand) (s : State) :
    Transacts s ((o.pointerReads s).map (false, ·)) (effective o s).2 := by
  cases o with
  | indirect a => exact (busRead a s).trans (busRead _ _)
  | indirectX z => exact (busRead _ s).trans (busRead _ _)
  | indirectY z => exact (busRead _ s).trans (busRead _ _)
  | _ => exact silent rfl rfl

theorem push (v : Byte) (s : State) : Transacts s [(true, stackSlot s.sp)] (push v s) := by
  rw [stackSlot_eq]
  exact (busWrite (stackAddr s.sp) v s).congr rfl rfl

theorem pull (s : State) : Transacts s [(false, stackSlot (s.sp + 1))] (pull s).2 := by
  rw [stackSlot_eq]
  exact busRead (stackAddr (s.sp + 1)) (s.setSP (s.sp + 1))

theorem pushWord (w : Word) (s : State) :
    Transacts s [(true, stackSlot s.sp), (true, stackSlot (s.sp - 1))] (pushWord w s) := by
  have second := push (loByte w) (Machine.push (hiByte w) s)
  rw [push_sp] at second
  exact (push (hiByte w) s).trans second

theorem pullWord (s : State) :
    Transacts s [(false, stackSlot (s.sp + 1)), (false, stackSlot (s.sp + 2))] (pullWord s).2 := by
  have second := pull (Machine.pull s).2
  have two : s.sp + 1 + 1 = s.sp + 2 := sp_add_two s.sp
  rw [pull_sp, two] at second
  exact (pull s).trans second

theorem fetch (s : State) : Transacts s [(false, s.pc)] (fetch s).2 := by
  rw [fetch_eq]
  exact (busRead s.pc s).congr rfl rfl

end Transacts

theorem fetchAccesses_succ (pc : Word) (n : Nat) :
    fetchAccesses pc (n + 1) = (false, pc) :: fetchAccesses (pc + 1) n := by
  simp only [fetchAccesses, List.range_succ_eq_map, List.map_cons, List.map_map]
  refine congrArg₂ List.cons (by simp) (List.map_congr_left fun k _ => ?_)
  simp only [Function.comp, Prod.mk.injEq, true_and]
  rw [Nat.succ_eq_one_add, BitVec.ofNat_add, ← BitVec.add_assoc]
  rfl

theorem transacts_readBytes (n : Nat) (s : State) : Transacts s (fetchAccesses s.pc n) (readBytes n s).2 := by
  induction n generalizing s with
  | zero => exact .silent rfl rfl
  | succ n ih =>
    have pc : (fetch s).2.pc = s.pc + 1 := by rw [fetch_eq]; rfl
    rw [readBytes_succ, fetchAccesses_succ, ← pc]
    exact (Transacts.fetch s).trans (ih (fetch s).2)

/-- The fetch of an instruction reads its bytes and nothing else (R120). -/
theorem transacts_fetchInstr {s t : State} {i : Instr} (h : fetchInstr s = .instr i t) :
    Transacts s (fetchAccesses s.pc i.row.mode.length) t := by
  have reads := fetchInstr_reads s
  rw [h] at reads
  obtain ⟨_, rfl, -, rfl, -⟩ := reads
  rw [← encode_length]
  exact transacts_readBytes _ s

/-! ### The shapes -/

/-- An answer is the end of a step that has made the accesses listed. -/
def Makes (s : State) (accesses : List (Bool × Word)) (r : Host.Outcome State Fault Refusal) : Prop :=
  ∃ n u, r = .next (endStep n u) ∧ Transacts s accesses u

/-- An effect on registers and flags alone. -/
def Quiet (f : Byte → State → State) : Prop :=
  ∀ v s, (f v s).out.bus = s.out.bus ∧ (f v s).dmaPage = s.dmaPage

section
variable {i : Instr} {o : Operand} {s : State}

theorem makes_readInstr (ho : Operand.of i = some o) (base : Nat) (penalized : Bool) {f : Byte → State → State}
    (hf : Quiet f) : Makes s (readAccesses i s) (readInstr o base penalized f s) := by
  refine ⟨_, _, readInstr_eq o base penalized f s, Transacts.congr ?_ (hf _ _).1 (hf _ _).2⟩
  rw [readAccesses, ho]
  cases o with
  | immediate v => exact .silent rfl rfl
  | _ => exact (Transacts.effective _ s).trans (.busRead _ _)

theorem makes_storeInstr (ho : Operand.of i = some o) (base : Nat) (v : State → Byte) :
    Makes s (storeAccesses i s) (storeInstr o base v s) := by
  refine ⟨_, _, storeInstr_eq o base v s, ?_⟩
  rw [storeAccesses, ho]
  exact (Transacts.effective o s).trans (.busWrite _ _ _)

theorem makes_rmwInstr (ho : Operand.of i = some o) (hp : o.pointerReads s = []) (base : Nat)
    (f : Byte → Byte → Byte × Byte) : Makes s (rmwAccesses i s) (rmwInstr o base f s) := by
  refine ⟨_, _, rmwInstr_eq o base f s, ?_⟩
  rw [rmwAccesses, ho]
  have address := Transacts.effective o s
  rw [hp] at address
  exact ((address.trans (.busRead _ _)).trans (.busWrite _ _ _)).congr rfl rfl

theorem makes_impliedInstr {accesses : List (Bool × Word)} {f : State → State} (n : Nat)
    (h : Transacts s accesses (f s)) : Makes s accesses (impliedInstr n f s) :=
  ⟨_, _, impliedInstr_eq n f s, h⟩

theorem makes_accInstr (f : Byte → Byte → Byte × Byte) : Makes s [] (accInstr f s) :=
  ⟨_, _, accInstr_eq f s, .silent rfl rfl⟩

theorem makes_branchInstr (cond : Byte → Bool) (d : Byte) : Makes s [] (branchInstr cond d s) :=
  ⟨_, _, branchInstr_setPC cond d s, .silent rfl rfl⟩

/-! ### The instructions with an operand -/

/-- The mnemonics that read, store or rewrite an operand. -/
def usesOperand : Mnemonic → Bool
  | .lda | .ldx | .ldy | .and | .ora | .eor | .bit | .adc | .sbc | .cmp | .cpx | .cpy | .sta | .stx | .sty | .asl | .lsr
  | .rol | .ror | .inc | .dec => true
  | _ => false

/-- A shift, increment or decrement has no mode that reads a pointer. -/
theorem mode_of_rmw (h : i.row.mnemonic ∈ [Mnemonic.asl, .lsr, .rol, .ror, .inc, .dec]) :
    i.row.mode ∉ [Mode.indirect, .indirectX, .indirectY] := by
  revert h
  cases i <;> (dsimp only [Instr.row]; decide)

theorem pointerReads_eq_nil (ho : Operand.of i = some o)
    (h : i.row.mode ∉ [Mode.indirect, .indirectX, .indirectY]) : o.pointerReads s = [] := by
  unfold Operand.of at ho
  split at ho
  case h_8 mode _ | h_9 mode _ | h_10 mode _ => exact absurd (by simp [mode]) h
  all_goals (cases ho <;> rfl)

theorem pointerReads_of_rmw (ho : Operand.of i = some o)
    (h : i.row.mnemonic ∈ [Mnemonic.asl, .lsr, .rol, .ror, .inc, .dec]) : o.pointerReads s = [] :=
  pointerReads_eq_nil ho (mode_of_rmw h)

theorem makes_of_operand (ho : Operand.of i = some o) (hu : usesOperand i.row.mnemonic = true) :
    Makes s (instrAccesses i s) (exec i s) := by
  have rmw := pointerReads_of_rmw (s := s) ho
  rw [exec_shapeOf i o s ho, shapeOf, instrAccesses]
  cases hm : i.row.mnemonic
  case lda | ldx | ldy | and | ora | eor | bit | adc | sbc | cmp | cpx | cpy =>
    exact makes_readInstr ho _ _ fun _ _ => ⟨rfl, rfl⟩
  case sta | stx | sty => exact makes_storeInstr ho _ _
  case asl | lsr | rol | ror | inc | dec => exact makes_rmwInstr ho (rmw (by rw [hm]; decide)) _ _
  all_goals (rw [hm] at hu; cases hu)

end

/-! ### The instructions of the stack and the jumps -/

theorem stackSlot_ne_0x4014 (sp : Byte) : stackSlot sp ≠ 0x4014 := by
  revert sp; decide

/-- BRK writes its three bytes and reads the vector the re-poll chooses. -/
theorem transacts_brkEffect (s : State) : Transacts s (instrAccesses .brk s) (brkEffect s) := by
  obtain ⟨bus, -⟩ := interruptEntry_hijackable true (s.setPC (s.pc + 1))
  refine ⟨_, bus, rfl, ?_⟩
  simp only [brkEffect, interruptEntry_dmaPage, startedDma, stackSlot_ne_0x4014, if_false]
  rfl

theorem transacts_returnFromInterrupt (s : State) :
    Transacts s (instrAccesses .rti s) (returnFromInterrupt s) := by
  let t := (pull s).2.setP (pulledStatus (pull s).1)
  have two : s.sp + 1 + 1 = s.sp + 2 := sp_add_two s.sp
  have three : s.sp + 1 + 2 = s.sp + 3 := by rw [BitVec.add_assoc]; rfl
  have sp : t.sp = s.sp + 1 := pull_sp s
  have word := Transacts.pullWord t
  rw [sp, two, three] at word
  exact (((Transacts.pull s).congr (u := t) rfl rfl).trans word).congr rfl rfl

theorem transacts_jmpInd (a : Word) (s : State) :
    Transacts s (instrAccesses (.jmpInd a) s) (effective (.indirect a) s).2 := by
  have operand : Operand.of (.jmpInd a) = some (.indirect a) :=
    congrArg (fun w => some (Operand.indirect w)) (wordOf_bytes a)
  have accesses : instrAccesses (.jmpInd a) s = (Operand.pointerReads (.indirect a) s).map (false, ·) :=
    congrArg (fun o : Option Operand => (o.elim [] (fun o => o.pointerReads s)).map (false, ·)) operand
  rw [accesses]
  exact .effective (.indirect a) s

/-- Every instruction makes the accesses the table of R306 lists, and ends its step. -/
theorem exec_makes (i : Instr) (s : State) : Makes s (instrAccesses i s) (exec i s) := by
  have silent (f : State → State) (hb : (f s).out.bus = s.out.bus) (hd : (f s).dmaPage = s.dmaPage) :
      Makes s [] (impliedInstr 2 f s) := makes_impliedInstr 2 (.silent hb hd)
  cases i
  case aslAcc => exact makes_accInstr aslOp
  case lsrAcc => exact makes_accInstr lsrOp
  case rolAcc => exact makes_accInstr rolOp
  case rorAcc => exact makes_accInstr rorOp
  case bpl d => exact makes_branchInstr (fun p => !flagN p) d
  case bvc d => exact makes_branchInstr (fun p => !flagV p) d
  case bcc d => exact makes_branchInstr (fun p => !flagC p) d
  case bne d => exact makes_branchInstr (fun p => !flagZ p) d
  case bmi d | bvs d | bcs d | beq d => exact makes_branchInstr _ d
  case tax | txa | tay | tya | tsx | txs | inx | iny | dex | dey | clc | sec | cli | sei | clv | cld | sed | nop =>
    exact silent _ rfl rfl
  case pha | php => exact makes_impliedInstr 3 (.push _ s)
  case pla | plp => exact makes_impliedInstr 4 ((Transacts.pull s).congr rfl rfl)
  case jmpAbs a => exact makes_impliedInstr 3 (.silent rfl rfl)
  case jmpInd a => exact ⟨_, _, exec_jmpInd a s, (transacts_jmpInd a s).congr rfl rfl⟩
  case jsr a => exact makes_impliedInstr 6 ((Transacts.pushWord _ s).congr rfl rfl)
  case rts => exact makes_impliedInstr 6 ((Transacts.pullWord s).congr rfl rfl)
  case brk => exact makes_impliedInstr 7 (transacts_brkEffect s)
  case rti => exact makes_impliedInstr 6 (transacts_returnFromInterrupt s)
  all_goals exact makes_of_operand rfl rfl

/-! ### The OAMDMA, and the step -/

/-- What the end of a step adds: the reads of the page in `dma_page`, if one is there. -/
theorem endStep_dma (n : Nat) (s : State) : ∃ dma, (endStep n s).out.bus = dma ++ s.out.bus ∧
    (∀ page, s.dmaPage = some page → dma.reverse.map BusTxn.access = dmaAccesses page) ∧
    (s.dmaPage = none → dma = []) := by
  cases hd : s.dmaPage with
  | none => exact ⟨[], by rw [endStep_none n s hd]; rfl, by simp, fun _ => rfl⟩
  | some page =>
    obtain ⟨dma, bus, reads⟩ := dmaCopy_bus 256 (wordOf page 0) s
    refine ⟨dma, by rw [endStep_some n page s hd]; exact bus, fun p hp => ?_, by simp⟩
    obtain rfl := Option.some.inj hp
    simp only [reads, dmaAccesses, wordOf_zero, BitVec.ofNat_add]

theorem count_write_of_reads (as : List Word) (a : Word) : (as.map (false, ·)).count (true, a) = 0 :=
  List.count_eq_zero.2 (by simp)

theorem count_write_fetchAccesses (pc : Word) (n : Nat) (a : Word) : (fetchAccesses pc n).count (true, a) = 0 :=
  List.count_eq_zero.2 (by simp [fetchAccesses])

theorem count_write_singleton (x : Bool × Word) (a : Word) : [x].count (true, a) ≤ 1 := List.count_le_length

theorem count_write_readAccesses (i : Instr) (s : State) (a : Word) : (readAccesses i s).count (true, a) = 0 := by
  unfold readAccesses
  split
  · rfl
  · rfl
  · rw [List.count_append, count_write_of_reads]
    rfl

theorem count_write_storeAccesses (i : Instr) (s : State) (a : Word) : (storeAccesses i s).count (true, a) ≤ 1 := by
  unfold storeAccesses
  split
  · exact Nat.zero_le 1
  · rw [List.count_append, count_write_of_reads, Nat.zero_add]
    exact count_write_singleton _ a

theorem count_write_rmwAccesses (i : Instr) (s : State) (a : Word) : (rmwAccesses i s).count (true, a) ≤ 1 := by
  unfold rmwAccesses
  split
  · exact Nat.zero_le 1
  · rw [List.count_cons_of_ne (by simp)]
    exact count_write_singleton _ a

/-- No instruction writes $4014 twice: the stack lies elsewhere, and a store or a read-modify-write writes once. -/
theorem count_oamDma_instrAccesses (i : Instr) (s : State) : (instrAccesses i s).count (true, 0x4014) ≤ 1 := by
  have stack (sp : Byte) : stackSlot sp ≠ 0x4014#16 := stackSlot_ne_0x4014 sp
  unfold instrAccesses
  cases i.row.mnemonic
  case lda | ldx | ldy | and | ora | eor | bit | adc | sbc | cmp | cpx | cpy =>
    exact (count_write_readAccesses i s _).le.trans (Nat.zero_le 1)
  case sta | stx | sty => exact count_write_storeAccesses i s _
  case asl | lsr | rol | ror | inc | dec => exact count_write_rmwAccesses i s _
  case jmp => exact (count_write_of_reads _ _).le.trans (Nat.zero_le 1)
  all_goals simp [stack]

/-- Settles O20: the fetch and the instruction make the accesses of the table, and the end of the step those of the page
that the one write to $4014 among them, if there is one, has started. -/
theorem exactBusTransactions : Obligations.ExactBusTransactions := by
  unfold Obligations.ExactBusTransactions
  intro s u v i hd hb hf
  obtain ⟨n, w, run, made⟩ := exec_makes i v
  obtain ⟨-, rfl, -, -⟩ := boundary_run hb
  obtain ⟨own, bus, accesses, page⟩ := (transacts_fetchInstr hf).trans made
  obtain ⟨dma, ends, reads, quiet⟩ := endStep_dma n w
  rw [sampled_bus, List.append_nil] at bus
  rw [sampled_dmaPage, hd, Option.or_none] at page
  rw [sampled_pc] at accesses
  have once : (own.map BusTxn.access).count (true, 0x4014) ≤ 1 := by
    rw [← List.count_reverse, ← List.map_reverse, accesses, List.count_append, count_write_fetchAccesses,
      Nat.zero_add]
    exact count_oamDma_instrAccesses i v
  refine ⟨endStep n w, own, dma, ?_, by rw [ends, bus], accesses, fun p hp => reads p ?_, fun hn => quiet ?_⟩
  · simp only [step, hb, hf, run]
  · rw [page, startedDma_of_mem hp once]
  · rw [page, startedDma_eq_none hn]

end Sys2Proof.Machine

end
